-- ==== Sys2Proof/Word.lean ====
section
/-!
DEFINITION. The word types of FLASHY-CODEC (spec/00_scope.md rule R10: every value is unsigned, bit 0 is the least
significant bit).
-/

namespace Sys2Proof

/-- An 8-bit byte: what the wire, the buffer and the sink carry (R10, R40, R43). -/
abbrev Byte := BitVec 8

/-- A 32-bit value: a header field, a byte count, a CRC accumulator (R9 parameter `W`, R22). -/
abbrev Word := BitVec 32

/-- The name by which a caller refers to a thing it owns: the storage of a decoder context (a link), a writer
context, a payload buffer, a sink or an event consumer. The spec has these references (R23, R28) and gives them no
width; eight bits is a DESIGN CHOICE (notes/assumptions/3.md). -/
abbrev Ref := BitVec 8

end Sys2Proof
end

