-- ==== Sys2Proof/Machine/Operands.lean ====
section
/-!
DEFINITION. The hardwired constants (spec/00_scope.md rule R8, spec/10_state.md rule R29) and the byte layouts of the
operands: a 32-bit value most-significant byte first, as the wire carries the CRC field (R55, R76), and a 32-bit value
least-significant byte first, as a request carries an operand (a DESIGN CHOICE, notes/assumptions/2.md).
-/

namespace Sys2Proof.Machine

/-- `SIGNAL` (R8): the preamble byte, and the byte that is escaped when it comes twice in a row. -/
def SIGNAL : Byte := 0xAA#8

/-- `SEPARATOR` (R8): the first byte of the covered region. -/
def SEPARATOR : Byte := 0x00#8

/-- `STUFF` (R8): the inserted byte; it is told from the separator by position, never by value. -/
def STUFF : Byte := 0x00#8

/-- `TERMINATOR` (R8): the last byte of a frame. -/
def TERMINATOR : Byte := 0x55#8

/-- `CRC_INIT` (R8, R100). -/
def CRC_INIT : Word := 0xFFFFFFFF#32

/-- `CRC_XOROUT` (R8, R102). -/
def CRC_XOROUT : Word := 0xFFFFFFFF#32

/-- `CRC_POLY_REFLECTED` (R8), the bit-reversal of the polynomial `0x04C11DB7`. -/
def CRC_POLY_REFLECTED : Word := 0xEDB88320#32

/-- The four bytes of `v` most-significant first: `v[31:24]`, `v[23:16]`, `v[15:8]`, `v[7:0]` (R70, R76). -/
def bytesMsbFirst (v : Word) : List Byte :=
  [v.extractLsb' 24 8, v.extractLsb' 16 8, v.extractLsb' 8 8, v.extractLsb' 0 8]

/-- The four bytes of `v` least-significant first: the layout of a 32-bit operand in a request, so that the operand's
bits follow each other in the numbering of spec/opcode_table.json. -/
def operandBytes (v : Word) : List Byte :=
  [v.extractLsb' 0 8, v.extractLsb' 8 8, v.extractLsb' 16 8, v.extractLsb' 24 8]

/-- The 32-bit operand whose bytes, least-significant first, are these four. -/
def operandOfBytes (b0 b1 b2 b3 : Byte) : Word :=
  b3 ++ b2 ++ b1 ++ b0

/-- The varint byte with continuation bit `c` and group `g`: bit 7 is `C`, bits 6:0 are `G` (R73). -/
def varintByte (c : Bool) (g : BitVec 7) : Byte :=
  BitVec.ofBool c ++ g

end Sys2Proof.Machine
end

