-- ==== Sys2Proof/Syntax.lean ====
section
/-!
DEFINITION. The instructions: one constructor per row of spec/opcode_table.json (spec/30_encoding.md rules R83, R84).
Ten rows of format `OP` are the operations of R4. Eight rows of format `DECSTATE` are `DEC_BYTE` in the state whose code
selects the stage-3 handler (R31). Six rows of format `BYTE` are received bytes with the patterns
of R78 and R84. A context operand (`link`, `w`) is the caller's name for the storage that holds the context.
-/

namespace Sys2Proof

inductive Instr where
  /-- `CRC_START` (R100): a fresh accumulator. -/
  | crcStart
  /-- `CRC_UPDATE crc, b` (R101): fold one byte into an accumulator. -/
  | crcUpdate (crc : Word) (b : Byte)
  /-- `CRC_FINISH crc` (R102): the final value of an accumulator. -/
  | crcFinish (crc : Word)
  /-- `VARINT_ENC v` (R120): the 1 to 5 bytes of a value. -/
  | varintEnc (v : Word)
  /-- `VARINT_DEC_STEP acc, b` (R121): fold one received byte into a value. -/
  | varintDecStep (acc : Word) (b : Byte)
  /-- `WR_INIT sink` (R140), the context it creates being stored under the name `w`. -/
  | wrInit (w sink : Ref)
  /-- `WR_BYTE w, b` (R141): send one byte through the stuffing writer. -/
  | wrByte (w : Ref) (b : Byte)
  /-- `ENCODE sink, seq, cmd, payload` (R155): send one whole frame. -/
  | encode (sink : Ref) (seq cmd : Word) (payload : List Byte)
  /-- `DEC_NEW buffer, capacity, on_packet, on_error` (R170), applied to the storage `link` (R260). -/
  | decNew (link buffer : Ref) (capacity : Word) (onPacket : Ref) (onError : Option Ref)
  /-- `DEC_BYTE dec, b` (R171): advance a decoder by one received byte. -/
  | decByte (link : Ref) (b : Byte)
  /-- `ST_WAITING_SIGNAL` (R176): a byte is received in the state of code 0. -/
  | stWaitingSignal (link : Ref) (b : Byte)
  /-- `ST_EXPECT_SEPARATOR` (R177): a byte is received in the state of code 1. -/
  | stExpectSeparator (link : Ref) (b : Byte)
  /-- `ST_EXPECT_SEQ` (R178): a byte is received in the state of code 2. -/
  | stExpectSeq (link : Ref) (b : Byte)
  /-- `ST_EXPECT_CMD` (R179): a byte is received in the state of code 3. -/
  | stExpectCmd (link : Ref) (b : Byte)
  /-- `ST_EXPECT_LENGTH` (R180): a byte is received in the state of code 4. -/
  | stExpectLength (link : Ref) (b : Byte)
  /-- `ST_EXPECT_DATA` (R181): a byte is received in the state of code 5. -/
  | stExpectData (link : Ref) (b : Byte)
  /-- `ST_EXPECT_CRC` (R182): a byte is received in the state of code 6. -/
  | stExpectCrc (link : Ref) (b : Byte)
  /-- `ST_EXPECT_TERMINATOR` (R183): a byte is received in the state of code 7. -/
  | stExpectTerminator (link : Ref) (b : Byte)
  /-- `BYTE_SIGNAL` (R172, match `AA`, mask `FF`): a signal byte is received. -/
  | byteSignal (link : Ref)
  /-- `BYTE_STUFF` (R175, match `00`, mask `FF`): a stuffing byte is received. -/
  | byteStuff (link : Ref)
  /-- `BYTE_SEPARATOR` (R177, match `00`, mask `FF`): a separator is received. -/
  | byteSeparator (link : Ref)
  /-- `BYTE_TERMINATOR` (R183, match `55`, mask `FF`): a terminator is received. -/
  | byteTerminator (link : Ref)
  /-- `BYTE_VARINT_CONT` (R121, match `80`, mask `80`): a varint byte with `C` = 1 and group `g` is received. -/
  | byteVarintCont (link : Ref) (g : BitVec 7)
  /-- `BYTE_VARINT_LAST` (R121, match `00`, mask `80`): a varint byte with `C` = 0 and group `g` is received. -/
  | byteVarintLast (link : Ref) (g : BitVec 7)
deriving DecidableEq, Repr

end Sys2Proof
end

