-- ==== Sys2Proof/WellFormed.lean ====
section
/-!
DEFINITION. Which instructions a caller may issue. Every operand of a fixed width is legal at every value (R9, R44,
R83). The one operand without a width is the payload of `ENCODE`, whose length is 0 to 2^32 - 1
(spec/10_state.md rule R44; above it: spec/93_implementation_defined.md U12).
-/

namespace Sys2Proof

/-- The operands of `i` lie in the ranges the spec gives them (R44). -/
def Instr.wellFormed (i : Instr) : Bool :=
  match i with
  | .encode _ _ _ payload => payload.length < 2 ^ 32
  | .crcStart => true
  | .crcUpdate _ _ => true
  | .crcFinish _ => true
  | .varintEnc _ => true
  | .varintDecStep _ _ => true
  | .wrInit _ _ => true
  | .wrByte _ _ => true
  | .decNew _ _ _ _ _ => true
  | .decByte _ _ => true
  | .stWaitingSignal _ _ => true
  | .stExpectSeparator _ _ => true
  | .stExpectSeq _ _ => true
  | .stExpectCmd _ _ => true
  | .stExpectLength _ _ => true
  | .stExpectData _ _ => true
  | .stExpectCrc _ _ => true
  | .stExpectTerminator _ _ => true
  | .byteSignal _ => true
  | .byteStuff _ => true
  | .byteSeparator _ => true
  | .byteTerminator _ => true
  | .byteVarintCont _ _ => true
  | .byteVarintLast _ _ => true

end Sys2Proof
end

