-- ==== Sys2Proof/Decode.lean ====
section
/-!
DEFINITION. Decoding a request, and encoding an instruction. The block has no command port (spec/30_encoding.md rule
R84); the spec gives every operation a 4-bit `op` code and every table row a pattern, and leaves the rest open. A request
is a selector byte and then the operands in the order of R83, names as one byte, 32-bit values as four bytes
least-significant first (DESIGN CHOICE, notes/assumptions/2.md):

* selector `0x00` to `0x0F`: format `OP`, the low four bits are the `op` code of R84; `0xA` to `0xF` are reserved and
  refused (R84, U8);
* selector `0x10` to `0x17`: format `DECSTATE`, the low three bits are the state code of R31; operands link, byte;
* selector `0x18` to `0x1D`: format `BYTE`, the six rows in the table's order; operand link, and for the two varint
  rows the received byte, which must match the row's mask;
* selector `0x20` and above: the selector is itself a received byte and names the `BYTE` row whose pattern it has
  (`AA`, `55`, bit 7 set, bit 7 clear, tried in this order); operand link.
-/

namespace Sys2Proof

open Machine

/-- Why a request is no instruction. -/
inductive DecodeError where
  /-- An `op` code that R84 reserves. -/
  | reservedOp (op : BitVec 4)
  /-- A selector byte that no row has. -/
  | unknownSelector (sel : Byte)
  /-- The request ends before its last operand. -/
  | truncated
  /-- An operand byte that no operand form has. -/
  | malformedOperand
deriving DecidableEq, Repr

/-- The next operand byte of a request. -/
def takeByte : List Byte → Except DecodeError (Byte × List Byte)
  | b :: rest => .ok (b, rest)
  | [] => .error .truncated

/-- The next 32-bit operand of a request, least-significant byte first. -/
def takeWord : List Byte → Except DecodeError (Word × List Byte)
  | b0 :: b1 :: b2 :: b3 :: rest => .ok (operandOfBytes b0 b1 b2 b3, rest)
  | _ => .error .truncated

/-- The next `n` bytes of a request: the payload of `ENCODE`. -/
def takeBytes (n : Nat) (r : List Byte) : Except DecodeError (List Byte × List Byte) :=
  if n ≤ r.length then .ok (r.take n, r.drop n) else .error .truncated

/-- The optional consumer of `DEC_NEW`: a presence byte, 0 or 1, and a name. -/
def takeOptRef : List Byte → Except DecodeError (Option Ref × List Byte)
  | p :: k :: rest =>
    if p = 0#8 then .ok (none, rest)
    else if p = 1#8 then .ok (some k, rest)
    else .error .malformedOperand
  | _ => .error .truncated

/-- The operands link and byte, given to `mk`. -/
def takeLinkByte (mk : Ref → Byte → Instr) (r : List Byte) : Except DecodeError (Instr × List Byte) := do
  let (l, r) ← takeByte r
  let (b, r) ← takeByte r
  return (mk l b, r)

/-- The operand link, given to `mk`. -/
def takeLink (mk : Ref → Instr) (r : List Byte) : Except DecodeError (Instr × List Byte) := do
  let (l, r) ← takeByte r
  return (mk l, r)

/-- The operands link and a varint byte whose bit 7 must be `c`, given to `mk` (R73: the row's mask is `80`). -/
def takeLinkVarint (c : Bool) (mk : Ref → BitVec 7 → Instr) (r : List Byte) :
    Except DecodeError (Instr × List Byte) := do
  let (l, r) ← takeByte r
  let (b, r) ← takeByte r
  if b.msb = c then return (mk l (b.extractLsb' 0 7), r) else .error .malformedOperand

/-- Format `OP`: the operation of R84 with this code, and its operands in the order of R83. -/
def decodeOp (op : BitVec 4) (r : List Byte) : Except DecodeError (Instr × List Byte) :=
  match op.toNat with
  | 0 => .ok (.crcStart, r)
  | 1 => do
    let (crc, r) ← takeWord r
    let (b, r) ← takeByte r
    return (.crcUpdate crc b, r)
  | 2 => do
    let (crc, r) ← takeWord r
    return (.crcFinish crc, r)
  | 3 => do
    let (v, r) ← takeWord r
    return (.varintEnc v, r)
  | 4 => do
    let (acc, r) ← takeWord r
    let (b, r) ← takeByte r
    return (.varintDecStep acc b, r)
  | 5 => takeLinkByte .wrInit r
  | 6 => takeLinkByte .wrByte r
  | 7 => do
    let (sink, r) ← takeByte r
    let (seq, r) ← takeWord r
    let (cmd, r) ← takeWord r
    let (n, r) ← takeWord r
    let (payload, r) ← takeBytes n.toNat r
    return (.encode sink seq cmd payload, r)
  | 8 => do
    let (link, r) ← takeByte r
    let (buffer, r) ← takeByte r
    let (capacity, r) ← takeWord r
    let (onPacket, r) ← takeByte r
    let (onError, r) ← takeOptRef r
    return (.decNew link buffer capacity onPacket onError, r)
  | 9 => takeLinkByte .decByte r
  | _ => .error (.reservedOp op)

/-- Formats `DECSTATE` and `BYTE`: the row of the table, in the table's order, and its operands. -/
def decodeRow (row : BitVec 4) (r : List Byte) : Except DecodeError (Instr × List Byte) :=
  match row.toNat with
  | 0 => takeLinkByte .stWaitingSignal r
  | 1 => takeLinkByte .stExpectSeparator r
  | 2 => takeLinkByte .stExpectSeq r
  | 3 => takeLinkByte .stExpectCmd r
  | 4 => takeLinkByte .stExpectLength r
  | 5 => takeLinkByte .stExpectData r
  | 6 => takeLinkByte .stExpectCrc r
  | 7 => takeLinkByte .stExpectTerminator r
  | 8 => takeLink .byteSignal r
  | 9 => takeLink .byteStuff r
  | 10 => takeLink .byteSeparator r
  | 11 => takeLink .byteTerminator r
  | 12 => takeLinkVarint true .byteVarintCont r
  | 13 => takeLinkVarint false .byteVarintLast r
  | _ => .error (.unknownSelector (0x1#4 ++ row))

/-- A selector that is itself a received byte: the `BYTE` row whose pattern it has (R84). -/
def decodeReceived (b : Byte) (r : List Byte) : Except DecodeError (Instr × List Byte) :=
  if b = SIGNAL then takeLink .byteSignal r
  else if b = TERMINATOR then takeLink .byteTerminator r
  else if b.msb then takeLink (fun l => .byteVarintCont l (b.extractLsb' 0 7)) r
  else takeLink (fun l => .byteVarintLast l (b.extractLsb' 0 7)) r

/-- The first instruction of a stream of requests, and the bytes after it. -/
def decode : List Byte → Except DecodeError (Instr × List Byte)
  | [] => .error .truncated
  | sel :: r =>
    match (sel.extractLsb' 4 4).toNat with
    | 0 => decodeOp (sel.extractLsb' 0 4) r
    | 1 => decodeRow (sel.extractLsb' 0 4) r
    | _ => decodeReceived sel r

/-- The selector byte of an instruction: the `op` code of R84, or `0x10` plus the row's place in the formats
`DECSTATE` and `BYTE`. -/
def Instr.selector (i : Instr) : Byte :=
  match i with
  | .crcStart => 0x00#8
  | .crcUpdate _ _ => 0x01#8
  | .crcFinish _ => 0x02#8
  | .varintEnc _ => 0x03#8
  | .varintDecStep _ _ => 0x04#8
  | .wrInit _ _ => 0x05#8
  | .wrByte _ _ => 0x06#8
  | .encode _ _ _ _ => 0x07#8
  | .decNew _ _ _ _ _ => 0x08#8
  | .decByte _ _ => 0x09#8
  | .stWaitingSignal _ _ => 0x10#8
  | .stExpectSeparator _ _ => 0x11#8
  | .stExpectSeq _ _ => 0x12#8
  | .stExpectCmd _ _ => 0x13#8
  | .stExpectLength _ _ => 0x14#8
  | .stExpectData _ _ => 0x15#8
  | .stExpectCrc _ _ => 0x16#8
  | .stExpectTerminator _ _ => 0x17#8
  | .byteSignal _ => 0x18#8
  | .byteStuff _ => 0x19#8
  | .byteSeparator _ => 0x1A#8
  | .byteTerminator _ => 0x1B#8
  | .byteVarintCont _ _ => 0x1C#8
  | .byteVarintLast _ _ => 0x1D#8

/-- The presence byte and the name of an optional consumer. -/
def optRefBytes : Option Ref → List Byte
  | none => [0#8, 0#8]
  | some k => [1#8, k]

/-- The operand bytes of an instruction, in the order of R83. -/
def Instr.operands (i : Instr) : List Byte :=
  match i with
  | .crcStart => []
  | .crcUpdate crc b => operandBytes crc ++ [b]
  | .crcFinish crc => operandBytes crc
  | .varintEnc v => operandBytes v
  | .varintDecStep acc b => operandBytes acc ++ [b]
  | .wrInit w sink => [w, sink]
  | .wrByte w b => [w, b]
  | .encode sink seq cmd payload =>
    [sink] ++ operandBytes seq ++ operandBytes cmd ++ operandBytes (BitVec.ofNat 32 payload.length) ++ payload
  | .decNew link buffer capacity onPacket onError =>
    [link, buffer] ++ operandBytes capacity ++ [onPacket] ++ optRefBytes onError
  | .decByte link b => [link, b]
  | .stWaitingSignal link b => [link, b]
  | .stExpectSeparator link b => [link, b]
  | .stExpectSeq link b => [link, b]
  | .stExpectCmd link b => [link, b]
  | .stExpectLength link b => [link, b]
  | .stExpectData link b => [link, b]
  | .stExpectCrc link b => [link, b]
  | .stExpectTerminator link b => [link, b]
  | .byteSignal link => [link]
  | .byteStuff link => [link]
  | .byteSeparator link => [link]
  | .byteTerminator link => [link]
  | .byteVarintCont link g => [link, varintByte true g]
  | .byteVarintLast link g => [link, varintByte false g]

/-- The request that asks for a well-formed instruction. -/
def encode (i : Instr) : List Byte :=
  i.selector :: i.operands

/-- The bytes of a table word of `nbits` bits, the least significant first, and then zeros up to the length of the
longest request without a payload (`ENCODE`, 14 bytes). -/
def tableWordBytes (nbits w : Nat) : List Byte :=
  (List.range ((nbits + 7) / 8)).map (fun k => BitVec.ofNat 8 (w / 256 ^ k)) ++ List.replicate 14 0#8

/-- The instruction that a word of spec/opcode_table.json selects, every operand byte zero. -/
def decodeTableWord (nbits w : Nat) : Option Instr :=
  match decode (tableWordBytes nbits w) with
  | .ok (i, _) => some i
  | .error _ => none

end Sys2Proof
end

