-- ==== Sys2Proof/Config.lean ====
section
/-!
DEFINITION. What an implementation fixes and the spec leaves to it: the two OPEN parameters of spec/00_scope.md rule R9
(spec/93_implementation_defined.md U13, U14). They have no body, so no proof can know their values: a claim about the
machine holds whatever they are. They stand only in the state after reset; `DEC_NEW` takes both as operands.
-/

namespace Sys2Proof

/-- `CAP`, the capacity in bytes of the decoder's payload buffer, 0 to 2^32 - 1 (R9, U13). -/
opaque Config.cap : Word

/-- `HAS_ON_ERROR`, whether an error consumer is attached to the decoder (R9, R28, U14). -/
opaque Config.hasOnError : Bool

end Sys2Proof
end

