-- ==== Sys2Proof/Machine/State.lean ====
section
/-!
DEFINITION. The state of FLASHY-CODEC (spec/10_state.md) as plain data, the events it emits, the reasons a step can stop,
and the state after reset. The block has no program counter, no general registers, no flags, no modes and no control
registers (R30, R33, R34, R245); its registers are those of a decoder context (R25, R28), one per link, and of a writer
context (R23), and its one writable memory is the payload buffer (R50). The CRC table is a constant, not state (R21, R37).
-/

namespace Sys2Proof.Machine

/-- The eight decoder states (R31). -/
inductive DecState where
  | waitingSignal
  | expectSeparator
  | expectSeq
  | expectCmd
  | expectLength
  | expectData
  | expectCrc
  | expectTerminator
deriving DecidableEq, Repr

/-- The six errors (R220). -/
inductive ErrCode where
  /-- A new preamble interrupted a frame in progress (R227). -/
  | newPacket
  /-- After exactly two signal bytes came neither a signal byte nor `00` (R228). -/
  | invalidStuffByte
  /-- The byte after the preamble run is not `00` (R229). -/
  | invalidSeparatorByte
  /-- The declared length exceeds the buffer's capacity (R230). -/
  | tooLarge
  /-- The received CRC differs from the finished running CRC (R232). -/
  | checksumMismatch
  /-- The byte after a matching CRC field is not `55` (R233). -/
  | invalidTerminator
deriving DecidableEq, Repr

/-- A view of the first `len` bytes of a payload buffer: a reference, not a copy (R41, R274). -/
structure BufView where
  buf : Ref
  len : Word
deriving DecidableEq, Repr

/-- One output of a `DEC_BYTE` step (R41, R42). -/
inductive Event where
  /-- `PKT(seq, cmd, payload, len)`; the payload is null when `len` is 0 (R41). -/
  | pkt (seq cmd : Word) (payload : Option BufView) (len : Word)
  /-- `ERR(code)`, which carries the code and nothing else (R42, R223). -/
  | err (code : ErrCode)
deriving DecidableEq, Repr

/-- An event as it is delivered: the link whose decoder emitted it, the consumer it goes to, and the event. -/
structure Emission where
  link : Ref
  consumer : Ref
  event : Event
deriving DecidableEq, Repr

/-- A decoder context (R25) with its configuration fields (R28). -/
structure Decoder where
  /-- `dec.state` (R31): the state in which the next byte will be processed (R30). -/
  state : DecState
  /-- `dec.seq`. -/
  seq : Word
  /-- `dec.cmd`. -/
  cmd : Word
  /-- `dec.len`. -/
  len : Word
  /-- `dec.count`: payload bytes stored so far, the offset of the next store. -/
  count : Word
  /-- `dec.crc`: the running, unfinished accumulator. -/
  crc : Word
  /-- `dec.crc_rx`: the bytes of the CRC field received so far. -/
  crcRx : Word
  /-- `dec.crc_n` (R27): how many CRC field bytes have been received. -/
  crcN : BitVec 2
  /-- `dec.sigcnt` (R26): the signal run that ends at the last byte received, saturated at 3. -/
  sigcnt : BitVec 2
  /-- `dec.buf` (R28): the caller-owned payload buffer. -/
  buf : Ref
  /-- `dec.cap` (R28): its capacity. -/
  cap : Word
  /-- The on-packet slot (R28), always present. -/
  onPacket : Ref
  /-- The on-error slot (R28), which may be absent. -/
  onError : Option Ref
deriving DecidableEq, Repr

/-- A decoder context as `DEC_NEW` leaves it: every register zero, the configuration from the operands (R45, R170). -/
def Decoder.fresh (buf : Ref) (cap : Word) (onPacket : Ref) (onError : Option Ref) : Decoder :=
  { state := .waitingSignal, seq := 0#32, cmd := 0#32, len := 0#32, count := 0#32, crc := 0#32, crcRx := 0#32,
    crcN := 0#2, sigcnt := 0#2, buf := buf, cap := cap, onPacket := onPacket, onError := onError }

/-- A writer context (R23) and the reference to its sink. -/
structure Writer where
  /-- `w.crc`: the accumulator over every byte sent, stuffing included. -/
  crc : Word
  /-- `w.sigcnt`: consecutive signal bytes seen within this writer. -/
  sigcnt : BitVec 2
  /-- The sink the writer is bound to (R23, R43). -/
  sink : Ref
deriving DecidableEq, Repr

/-- What an operation returns to its caller (R83, column "results"). -/
inductive Result where
  /-- No value: `DEC_BYTE` and `ENCODE` return `()`, and the contexts stand in the state. -/
  | none
  /-- A 32-bit value: an accumulator (R100, R101) or a finished CRC (R102). -/
  | word (v : Word)
  /-- The bytes of a varint (R120). -/
  | bytes (bs : List Byte)
  /-- A varint accumulator and whether the value is complete (R121). -/
  | varint (acc : Word) (done : Bool)
deriving DecidableEq, Repr

/-- What is kept by name or address: pairs with strictly rising keys, an unlisted key having no value. -/
abbrev Slots (α : Type) := List (Nat × α)

/-- The storage of all payload buffers, byte by byte (`Host.Cell` pairs). The key of offset `off` of buffer `buf` is
`buf * 2^32 + off` (Machine/Ops.lean `bufAddr`). -/
abbrev Memory := Slots (BitVec 8)

/-- The whole state. -/
structure State where
  /-- The decoder contexts, by link (R20, R25). -/
  decoders : Slots Decoder
  /-- The writer contexts, by the caller's name for them (R20, R23). -/
  writers : Slots Writer
  /-- The payload buffers (R50). -/
  memory : Memory
  /-- Every event emitted, the oldest first (R41, R42). -/
  events : List Emission
  /-- Every byte sent to a sink, with the sink, the oldest first (R43). -/
  sent : List (Ref × Byte)
  /-- What the last operation returned to its caller. -/
  result : Result
  /-- The bytes of the requests the callers have issued and the block has not yet taken, the oldest first. -/
  requests : List Byte
deriving DecidableEq, Repr

/-- Reasons for which the machine stops with a fault. -/
inductive Fault where
  /-- Raised by the store of `expect_data` at an offset that is not below the capacity: the address is not in the
  space `BUF` (R50). Safe: the machine stops where the spec has no such store (R53), and no reachable state raises it. -/
  | outsideBuffer
deriving DecidableEq, Repr

/-- Reasons for which a step has no meaning. -/
inductive Refusal where
  /-- Raised by `exec` for an instruction whose meaning is not written. Safe: nothing follows from it. -/
  | notModelled (mnemonic : String)
  /-- Raised by the fetch for the `op` codes 0xA to 0xF (R84, U8). Safe: the spec says to refuse them. -/
  | reservedOpCode (op : BitVec 4)
  /-- Raised by the fetch for a selector byte no row has. Safe: it is no instruction of the spec. -/
  | unknownSelector (sel : BitVec 8)
  /-- Raised by the fetch when the pending requests end inside an instruction. Safe: it is no whole operation (R7). -/
  | truncatedRequest
  /-- Raised by the fetch for an operand byte no operand form has. Safe: it is no instruction of the spec. -/
  | malformedOperand
  /-- Raised by every decoder operation but `DEC_NEW` on a link whose context was never constructed (R265, U3).
  Safe: the spec says to refuse it. -/
  | contextNotConstructed (link : Ref)
  /-- Raised by `WR_BYTE` on a writer context that no `WR_INIT` created (R23, R45). Safe: there is no such context. -/
  | writerNotCreated (w : Ref)
  /-- Raised by `DEC_NEW` when another context holds the buffer (R36, U4). Safe: the spec says to refuse it. -/
  | bufferShared (buf : Ref)
  /-- Raised by a `DECSTATE` row whose handler `dec.state` does not select (R84, R190). Safe: the spec has no such
  transition. -/
  | handlerNotSelected (handler : DecState)
  /-- Raised by `ENCODE` with a payload longer than 2^32 - 1 bytes (R44, U12). Safe: the spec says to refuse it. -/
  | payloadTooLong
deriving DecidableEq, Repr

/-- The machine after reset (R45, R260): the decoder of link 0 as `DEC_NEW` leaves it with the parameters `CAP` and
`HAS_ON_ERROR` (R9), no writer context (R45), nothing stored, nothing emitted, nothing sent, nothing requested. That the
reset state holds one decoder, and the names 0 of its link, buffer and consumers, are DESIGN CHOICES
(notes/assumptions/4.md). -/
def State.reset : State :=
  { decoders := [(0, Decoder.fresh 0#8 Config.cap 0#8 (if Config.hasOnError then some 0#8 else none))],
    writers := [], memory := [], events := [], sent := [], result := .none, requests := [] }

end Sys2Proof.Machine
end

