-- ==== Sys2Proof/Machine/Ops.lean ====
section
/-!
DEFINITION. The named operations over the state: tables kept by name or address, the payload buffer, the contexts, the
outputs; taking an error (R234), the block's only exceptional condition; and how the effect of one received byte is put
into the state. Every meaning is written over these.
-/

namespace Sys2Proof.Machine

/-! ### Tables with strictly rising keys -/

/-- The value kept under a key. -/
def Slots.find {α : Type} : Slots α → Nat → Option α
  | [], _ => none
  | (k, v) :: rest, key => if k = key then some v else Slots.find rest key

/-- Keep a value under a key: replace the entry, or insert it where the keys stay in order. -/
def Slots.put {α : Type} (key : Nat) (v : α) : Slots α → Slots α
  | [] => [(key, v)]
  | (k, u) :: rest =>
    if key < k then (key, v) :: (k, u) :: rest
    else if key = k then (key, v) :: rest
    else (k, u) :: Slots.put key v rest

/-- The canonical form: strictly rising keys. -/
def Slots.wf {α : Type} : Slots α → Bool
  | [] => true
  | [_] => true
  | (k, _) :: (k', v') :: rest => k < k' && Slots.wf ((k', v') :: rest)

/-! ### The payload buffers (R50 to R58) -/

/-- The key under which `BUF` of buffer `buf` keeps offset `off` (R58: the base is the platform's; each buffer has a
window of its own, R36). -/
def bufAddr (buf : Ref) (off : Nat) : Nat :=
  buf.toNat * 2 ^ 32 + off

/-- `MemRead(BUF, off, 1)` (R12): the byte a consumer sees. An offset nothing has stored to has no value (R45, U9). -/
def Memory.read (m : Memory) (buf : Ref) (off : Nat) : Option Byte :=
  Slots.find m (bufAddr buf off)

/-- `MemWrite(BUF, off, 1, v)` (R12, R53): store one byte. -/
def Memory.write (m : Memory) (buf : Ref) (off : Nat) (v : Byte) : Memory :=
  Slots.put (bufAddr buf off) v m

/-- The canonical form of the memory: strictly rising addresses. An unlisted address has no value, so no entry can
equal what an unlisted address reads as. -/
def Memory.wf (m : Memory) : Bool :=
  Slots.wf m

/-- The payload that a view shows now (R41): byte `i` is `MemRead(BUF, i, 1)` for `i` in `0 .. len - 1`. -/
def Memory.viewed (m : Memory) (v : BufView) : List (Option Byte) :=
  (List.range v.len.toNat).map (m.read v.buf)

/-! ### Contexts and outputs -/

/-- The decoder context of a link. -/
def State.decoder (s : State) (link : Ref) : Option Decoder :=
  Slots.find s.decoders link.toNat

/-- Write the decoder context of a link. -/
def State.setDecoder (s : State) (link : Ref) (d : Decoder) : State :=
  { s with decoders := Slots.put link.toNat d s.decoders }

/-- The writer context of a name. -/
def State.writer (s : State) (w : Ref) : Option Writer :=
  Slots.find s.writers w.toNat

/-- Write the writer context of a name. -/
def State.setWriter (s : State) (w : Ref) (x : Writer) : State :=
  { s with writers := Slots.put w.toNat x s.writers }

/-- Store one byte of a payload buffer. -/
def State.store (s : State) (buf : Ref) (off : Nat) (v : Byte) : State :=
  { s with memory := s.memory.write buf off v }

/-- `SINK(b)` for each of the bytes, in order (R12, R43). -/
def State.send (s : State) (sink : Ref) (bs : List Byte) : State :=
  { s with sent := s.sent ++ bs.map (fun b => (sink, b)) }

/-- Deliver an event to a consumer (R41, R42). -/
def State.emit (s : State) (link consumer : Ref) (e : Event) : State :=
  { s with events := s.events ++ [{ link := link, consumer := consumer, event := e }] }

/-- Hand a result to the caller. -/
def State.setResult (s : State) (r : Result) : State :=
  { s with result := r }

/-- Take the pending requests to be `bs`. -/
def State.setRequests (s : State) (bs : List Byte) : State :=
  { s with requests := bs }

/-- The context of a link whose space `BUF` has this offset: `0` to `CAP - 1` (R50). There is none on a link without a
context, and none for an offset outside the space. -/
def State.bufferAt (s : State) (link : Ref) (off : Word) : Option Decoder :=
  (s.decoder link).filter (fun d => off.toNat < d.cap.toNat)

/-- What the consumer of a link may do to its `BUF` at any time (R65): store one byte at an offset of the space, and
nowhere else. No step of the block does it: it is an input, and outside the space there is no such input. -/
def State.consumerWrite (s : State) (link : Ref) (off : Word) (v : Byte) : Option State :=
  (s.bufferAt link off).map (fun d => s.store d.buf off.toNat v)

/-- What the consumer of a link reads from its `BUF` at any time (R65): the byte at an offset of the space, if something
has stored there. The block cannot tell. -/
def State.consumerRead (s : State) (link : Ref) (off : Word) : Option Byte :=
  (s.bufferAt link off).bind (fun d => s.memory.read d.buf off.toNat)

/-- The bytes a sink has received, in order (R43). -/
def State.sinkBytes (s : State) (sink : Ref) : List Byte :=
  (s.sent.filter (fun p => p.1 = sink)).map Prod.snd

/-- Whether some other link's context holds the buffer (R36, U4). -/
def State.bufferTaken (s : State) (link buf : Ref) : Bool :=
  s.decoders.any (fun p => p.1 ≠ link.toNat && p.2.buf = buf)

/-! ### Taking an error (R234) -/

/-- The numeric code of an error (R220). -/
def ErrCode.code : ErrCode → Nat
  | .newPacket => 1
  | .invalidStuffByte => 2
  | .invalidSeparatorByte => 3
  | .tooLarge => 4
  | .checksumMismatch => 5
  | .invalidTerminator => 6

/-- The 3-bit code of a decoder state (R31). -/
def DecState.code : DecState → BitVec 3
  | .waitingSignal => 0#3
  | .expectSeparator => 1#3
  | .expectSeq => 2#3
  | .expectCmd => 3#3
  | .expectLength => 4#3
  | .expectData => 5#3
  | .expectCrc => 6#3
  | .expectTerminator => 7#3

/-- The state an error leaves (R220, R234): `expect_separator` for `new_packet`, else `waiting_signal`. -/
def ErrCode.stateAfter : ErrCode → DecState
  | .newPacket => .expectSeparator
  | .invalidStuffByte => .waitingSignal
  | .invalidSeparatorByte => .waitingSignal
  | .tooLarge => .waitingSignal
  | .checksumMismatch => .waitingSignal
  | .invalidTerminator => .waitingSignal

/-- The effect of one received byte on its context: the registers, at most one store to `BUF` (offset and byte), at most
one event (R57, R171, R225). -/
structure ByteEffect where
  decoder : Decoder
  store : Option (Word × Byte)
  event : Option Event
deriving DecidableEq, Repr

/-- A byte that writes registers only. -/
def Decoder.quiet (d : Decoder) : ByteEffect :=
  { decoder := d, store := none, event := none }

/-- Taking an error (R234): `dec.state` is written, `ERR(code)` is produced, the step ends. Nothing is saved, because
nothing is interrupted, and no other register is written (R231). There is no return operation: the decoder is already in
its recovered state (R235). -/
def Decoder.takeError (d : Decoder) (c : ErrCode) : ByteEffect :=
  { decoder := { d with state := c.stateAfter }, store := none, event := some (.err c) }

/-! ### One received byte in the whole state -/

/-- Deliver an event of a link's decoder: `PKT` to the packet consumer, `ERR` to the error consumer, or nowhere when the
on-error slot is empty (R41, R42, R222). -/
def State.report (s : State) (link : Ref) (d : Decoder) : Option Event → State
  | none => s
  | some (.pkt seq cmd payload len) => s.emit link d.onPacket (.pkt seq cmd payload len)
  | some (.err c) =>
    match d.onError with
    | none => s
    | some k => s.emit link k (.err c)

/-- Put the registers and the event of one received byte into the state; the caller gets no result. The event comes
last: every write is complete when the consumer sees it (R171, R234). -/
def State.settle (s : State) (link : Ref) (e : ByteEffect) : State :=
  ((s.setDecoder link e.decoder).report link e.decoder e.event).setResult .none

/-- Put the whole effect of one received byte into the state. A store outside `0 .. CAP - 1` has no address (R50). -/
def State.commit (s : State) (link : Ref) (e : ByteEffect) : Host.Outcome State Fault Refusal :=
  match e.store with
  | none => .next (s.settle link e)
  | some (off, b) =>
    if off.toNat < e.decoder.cap.toNat then .next ((s.store e.decoder.buf off.toNat b).settle link e)
    else .fault .outsideBuffer

/-- Run a function of a byte on the context of a link. -/
def State.onDecoder (s : State) (link : Ref) (f : Decoder → ByteEffect) : Host.Outcome State Fault Refusal :=
  match s.decoder link with
  | none => .refused (.contextNotConstructed link)
  | some d => s.commit link (f d)

/-! ### Refusing a request -/

/-- The refusal for a request that is no instruction. -/
def refusalOf : DecodeError → Refusal
  | .reservedOp op => .reservedOpCode op
  | .unknownSelector sel => .unknownSelector sel
  | .truncated => .truncatedRequest
  | .malformedOperand => .malformedOperand

end Sys2Proof.Machine
end

