-- ==== Sys2Proof/Machine/Flags.lean ====
section
/-!
DEFINITION. The block has no status flags and no condition codes (spec/10_state.md rule R33). What stands here in their
place is every condition a step tests: the signal-run conditions of stages 1 and 2 (R78, R171), the completion bit of a
varint byte (R121), and the selection of a handler by `dec.state` (R84).
-/

namespace Sys2Proof.Machine

/-- The next value of a run counter of the decoder after a signal byte: it saturates at 3 (R26, R172). -/
def sigcntNext (n : BitVec 2) : BitVec 2 :=
  if n = 3#2 then 3#2 else n + 1#2

/-- Stage 1 (R172): the run counter is updated before anything else, in every state. -/
def Decoder.countByte (d : Decoder) (b : Byte) : Decoder :=
  { d with sigcnt := if b = SIGNAL then sigcntNext d.sigcnt else 0#2 }

/-- Stage 1 consumes the byte (R78, R173): a signal byte that leaves the counter at 3. -/
def Decoder.syncs (d : Decoder) (b : Byte) : Bool :=
  b = SIGNAL && (sigcntNext d.sigcnt) = 3#2

/-- Stage 2 consumes the byte (R78, R175): a byte that is not `SIGNAL` after exactly two signal bytes. -/
def Decoder.stuffChecks (d : Decoder) (b : Byte) : Bool :=
  b ≠ SIGNAL && d.sigcnt = 2#2

/-- `done` of `VARINT_DEC_STEP` (R121): bit 7 is clear. -/
def varintDone (b : Byte) : Bool :=
  !b.msb

/-- A frame is in progress (R16, R173): the decoder is in any state but `waiting_signal`. -/
def Decoder.inProgress (d : Decoder) : Bool :=
  d.state ≠ .waitingSignal

end Sys2Proof.Machine
end

