-- ==== Sys2Proof/Machine/Varint.lean ====
section
/-!
DEFINITION. The varint codec (spec/41_varint.md): `VARINT_ENC` (R120) and `VARINT_DEC_STEP` (R121), most-significant
group first (R73, R124). The codec holds no state.
-/

namespace Sys2Proof.Machine

/-- `k` of R120: the least number of 7-bit groups that hold `v`, at least 1 and at most 5. The loop of the rule tests
`k` = 1, 2, 3, 4 in turn. -/
def varintLength (v : Word) : Nat :=
  if v >>> 7 = 0#32 then 1
  else if v >>> 14 = 0#32 then 2
  else if v >>> 21 = 0#32 then 3
  else if v >>> 28 = 0#32 then 4
  else 5

/-- Group `j` of `v` counted from the least significant: `(v >> 7*j)[6:0]` (R120). -/
def varintGroup (v : Word) (j : Nat) : BitVec 7 :=
  (v >>> (7 * j)).extractLsb' 0 7

/-- The lowest `k` groups of `v`, most significant first; every byte but the last has bit 7 set (R73, R120). -/
def varintGroups (v : Word) : Nat → List Byte
  | 0 => []
  | k + 1 => varintByte (k ≠ 0) (varintGroup v k) :: varintGroups v k

/-- `VARINT_ENC(v)`, written `vi(v)` (R13, R120). -/
def varintBytes (v : Word) : List Byte :=
  varintGroups v (varintLength v)

/-- `acc'` of `VARINT_DEC_STEP` (R121): `trunc_32(acc << 7) OR zext_32(b[6:0])`. -/
def varintAccumulate (acc : Word) (b : Byte) : Word :=
  (acc <<< 7) ||| (b.extractLsb' 0 7).setWidth 32

/-- `VARINT_DEC(A)` (R83): the step folded over the bytes from `acc` until `done`. It answers the accumulator, whether
the value is complete, and the bytes not read. -/
def varintDecode (acc : Word) : List Byte → Word × Bool × List Byte
  | [] => (acc, false, [])
  | b :: rest =>
    if varintDone b then (varintAccumulate acc b, true, rest) else varintDecode (varintAccumulate acc b) rest

/-- `VARINT_ENC v` (R120): the bytes are handed to the caller; every value has an encoding. -/
def execVarintEnc (v : Word) (s : State) : Host.Outcome State Fault Refusal :=
  .next (s.setResult (.bytes (varintBytes v)))

/-- `VARINT_DEC_STEP acc, b` (R121). -/
def execVarintDecStep (acc : Word) (b : Byte) (s : State) : Host.Outcome State Fault Refusal :=
  .next (s.setResult (.varint (varintAccumulate acc b) (varintDone b)))

end Sys2Proof.Machine
end

