-- ==== Sys2Proof/Machine/Writer.lean ====
section
/-!
DEFINITION. The stuffing-aware byte writer (spec/42_stuffing_writer.md): `WR_INIT` (R140) and `WR_BYTE` (R141), and
what the writer sends for a byte sequence, stated without the writer (R77, R143).
-/

namespace Sys2Proof.Machine

/-- A fresh writer context bound to a sink (R140). -/
def Writer.fresh (sink : Ref) : Writer :=
  { crc := crcStart, sigcnt := 0#2, sink := sink }

/-- `WR_BYTE(w, b)` (R141): the context after the step, and the bytes the step sends to the sink. -/
def Writer.push (w : Writer) (b : Byte) : Writer × List Byte :=
  let crc := crcUpdate w.crc b
  if b = SIGNAL then
    let n := w.sigcnt + 1#2
    if n = 2#2 then ({ w with crc := crcUpdate crc STUFF, sigcnt := 0#2 }, [b, STUFF])
    else ({ w with crc := crc, sigcnt := n }, [b])
  else ({ w with crc := crc, sigcnt := 0#2 }, [b])

/-- `WR_BYTE` for each byte in order: the last context and everything sent. -/
def Writer.pushAll (w : Writer) : List Byte → Writer × List Byte
  | [] => (w, [])
  | b :: rest => (((w.push b).1.pushAll rest).1, (w.push b).2 ++ ((w.push b).1.pushAll rest).2)

/-- `stuffed(A)` (R13, R143) by the words of R77: pairs of signal bytes are counted from the left, each pair is followed
by one inserted `00`, and the count restarts after it. -/
def stuffed : List Byte → List Byte
  | [] => []
  | [a] => [a]
  | a :: b :: rest => if a = SIGNAL ∧ b = SIGNAL then a :: b :: STUFF :: stuffed rest else a :: stuffed (b :: rest)

/-- Removing the inserted bytes (R143, R144): the byte after each pair of signal bytes, pairs counted from the left. -/
def destuffed : List Byte → List Byte
  | a :: b :: c :: rest =>
    if a = SIGNAL ∧ b = SIGNAL then a :: b :: destuffed rest else a :: destuffed (b :: c :: rest)
  | short => short

/-- `WR_INIT sink` (R140): the context is created under the caller's name `w`; nothing is sent. A name that holds a
context already gets the new one. -/
def execWrInit (w sink : Ref) (s : State) : Host.Outcome State Fault Refusal :=
  .next ((s.setWriter w (Writer.fresh sink)).setResult .none)

/-- `WR_BYTE w, b` (R141). A name that holds no context is refused: there is no writer before `WR_INIT` (R23, R45). -/
def execWrByte (w : Ref) (b : Byte) (s : State) : Host.Outcome State Fault Refusal :=
  match s.writer w with
  | none => .refused (.writerNotCreated w)
  | some x => .next (((s.setWriter w (x.push b).1).send x.sink (x.push b).2).setResult .none)

/-- `WR_BYTE w` of each byte in order, stopping where a step stops. -/
def State.write (s : State) (w : Ref) : List Byte → Host.Outcome State Fault Refusal
  | [] => .next s
  | b :: rest =>
    match execWrByte w b s with
    | .next s' => s'.write w rest
    | .fault f => .fault f
    | .refused r => .refused r

end Sys2Proof.Machine
end

