-- ==== Sys2Proof/Machine/Encoder.lean ====
section
/-!
DEFINITION. The packet encoder (spec/43_packet_encoder.md): `ENCODE` (R155), the frame as R70 lays it out, and the
predicate `FrameClean` of spec/70_reset_and_hazards.md rule R275.
-/

namespace Sys2Proof.Machine

/-- What is written through the writer, before stuffing (R70, R155): separator, header, payload. -/
def frameBody (seq cmd : Word) (payload : List Byte) : List Byte :=
  [SEPARATOR] ++ varintBytes seq ++ varintBytes cmd ++ varintBytes (BitVec.ofNat 32 payload.length) ++ payload

/-- The bytes `ENCODE` sends, as the pseudocode of R155 produces them: preamble raw, the body through a fresh writer, the
finished CRC of that writer raw, the terminator raw. -/
def encodedFrame (sink : Ref) (seq cmd : Word) (payload : List Byte) : List Byte :=
  let run := (Writer.fresh sink).pushAll (frameBody seq cmd payload)
  [SIGNAL, SIGNAL, SIGNAL] ++ run.2 ++ bytesMsbFirst (crcFinish run.1.crc) ++ [TERMINATOR]

/-- The covered region `S` of a frame (R16, R70). -/
def coveredRegion (seq cmd : Word) (payload : List Byte) : List Byte :=
  stuffed (frameBody seq cmd payload)

/-- The CRC field `C` of a frame (R70, R76). -/
def crcField (seq cmd : Word) (payload : List Byte) : List Byte :=
  bytesMsbFirst (crc32 (coveredRegion seq cmd payload))

/-- The frame `E(seq, cmd, payload)` as R70 lays it out. -/
def frame (seq cmd : Word) (payload : List Byte) : List Byte :=
  [SIGNAL, SIGNAL, SIGNAL] ++ coveredRegion seq cmd payload ++ crcField seq cmd payload ++ [TERMINATOR]

/-- How many consecutive signal bytes a byte sequence ends in. -/
def trailingSignals (bs : List Byte) : Nat :=
  (bs.reverse.takeWhile (fun b => b = SIGNAL)).length

/-- `z` of R275: the last byte of `stuffed(A)` is an inserted one, that is, `A` ends in a run of signal bytes of even
length that is not empty (R77: one insertion after each second byte of a run). -/
def endsStuffed (bs : List Byte) : Bool :=
  0 < trailingSignals bs && trailingSignals bs % 2 = 0

/-- `k` of R275 is 1: the writer's count at the end of `stuffed(A)`, that is, `A` ends in a run of odd length. -/
def endsInOpenSignal (bs : List Byte) : Bool :=
  trailingSignals bs % 2 = 1

/-- Clause (2) of `FrameClean` (R275): not (`k` = 1 and `c0` is `AA`). -/
def fieldJoinClean (body field : List Byte) : Bool :=
  !(endsInOpenSignal body && field.head? = some SIGNAL)

/-- Clause (3) of `FrameClean` (R275): no two adjacent bytes of the CRC field are both `AA`. -/
def noSignalPair : List Byte → Bool
  | a :: b :: rest => !(a = SIGNAL && b = SIGNAL) && noSignalPair (b :: rest)
  | _ => true

/-- `FrameClean(E(seq, cmd, payload))` (R275). -/
def frameClean (seq cmd : Word) (payload : List Byte) : Bool :=
  !endsStuffed (frameBody seq cmd payload) &&
    fieldJoinClean (frameBody seq cmd payload) (crcField seq cmd payload) &&
    noSignalPair (crcField seq cmd payload)

/-- `ENCODE sink, seq, cmd, payload` (R155): the frame is sent to the sink; no state of the encoder survives the call
(R24, R158). A payload longer than 2^32 - 1 bytes is refused (R44, U12). -/
def execEncode (sink : Ref) (seq cmd : Word) (payload : List Byte) (s : State) : Host.Outcome State Fault Refusal :=
  if payload.length < 2 ^ 32 then .next ((s.send sink (encodedFrame sink seq cmd payload)).setResult .none)
  else .refused .payloadTooLong

end Sys2Proof.Machine
end

