-- ==== Sys2Proof/Machine/Handlers.lean ====
section
/-!
DEFINITION. The eight stage-3 handlers of `DEC_BYTE` (spec/44_frame_decoder.md rules R176 to R183). A handler sees only
bytes that stages 1 and 2 did not consume; it does not touch the run counter, which is stage 1's.
-/

namespace Sys2Proof.Machine

/-- `CLEAR_ACC()` (R174). -/
def Decoder.clearAcc (d : Decoder) : Decoder :=
  { d with seq := 0#32, cmd := 0#32, len := 0#32, count := 0#32, crcRx := 0#32, crcN := 0#2 }

/-- Fold a byte into the running CRC. -/
def Decoder.foldCrc (d : Decoder) (b : Byte) : Decoder :=
  { d with crc := crcUpdate d.crc b }

/-- The handler of `waiting_signal` (R176): it ignores every byte. -/
def Decoder.onWaitingSignal (d : Decoder) (_b : Byte) : ByteEffect :=
  d.quiet

/-- The handler of `expect_separator` (R177). -/
def Decoder.onExpectSeparator (d : Decoder) (b : Byte) : ByteEffect :=
  if b = SEPARATOR then
    ({ ({ d with crc := crcUpdate crcStart b } : Decoder).clearAcc with state := .expectSeq } : Decoder).quiet
  else d.takeError .invalidSeparatorByte

/-- The handler of `expect_seq` (R178). -/
def Decoder.onExpectSeq (d : Decoder) (b : Byte) : ByteEffect :=
  let d := { d.foldCrc b with seq := varintAccumulate d.seq b }
  if varintDone b then ({ d with state := .expectCmd } : Decoder).quiet else d.quiet

/-- The handler of `expect_cmd` (R179). -/
def Decoder.onExpectCmd (d : Decoder) (b : Byte) : ByteEffect :=
  let d := { d.foldCrc b with cmd := varintAccumulate d.cmd b }
  if varintDone b then ({ d with state := .expectLength } : Decoder).quiet else d.quiet

/-- The handler of `expect_length` (R180): the capacity is compared on the last byte only, unsigned, "exceeds" strict. -/
def Decoder.onExpectLength (d : Decoder) (b : Byte) : ByteEffect :=
  let d := { d.foldCrc b with len := varintAccumulate d.len b }
  if varintDone b then
    if d.cap < d.len then d.takeError .tooLarge
    else if 0#32 < d.len then ({ d with state := .expectData } : Decoder).quiet
    else ({ d with state := .expectCrc } : Decoder).quiet
  else d.quiet

/-- The handler of `expect_data` (R181): one store at offset `dec.count` (R53). -/
def Decoder.onExpectData (d : Decoder) (b : Byte) : ByteEffect :=
  let d' := { d.foldCrc b with count := d.count + 1#32 }
  { decoder := if d'.count = d'.len then { d' with state := .expectCrc } else d',
    store := some (d.count, b), event := none }

/-- The handler of `expect_crc` (R182): the finished CRC is a temporary, `dec.crc` keeps the accumulator. The 2-bit
`dec.crc_n` holds 3 when the fourth byte comes. -/
def Decoder.onExpectCrc (d : Decoder) (b : Byte) : ByteEffect :=
  let d' := { d with crcRx := (d.crcRx <<< 8) ||| b.setWidth 32 }
  if d.crcN = 3#2 then
    let d' := { d' with crcN := 0#2 }
    if crcFinish d'.crc ≠ d'.crcRx then d'.takeError .checksumMismatch
    else ({ d' with state := .expectTerminator } : Decoder).quiet
  else ({ d' with crcN := d.crcN + 1#2 } : Decoder).quiet

/-- The payload of the `PKT` event (R41, R183): null when the length is 0, else a view of the decoder's own buffer. -/
def Decoder.payloadView (d : Decoder) : Option BufView :=
  if d.len = 0#32 then none else some { buf := d.buf, len := d.len }

/-- The handler of `expect_terminator` (R183). -/
def Decoder.onExpectTerminator (d : Decoder) (b : Byte) : ByteEffect :=
  if b = TERMINATOR then
    { decoder := { d with state := .waitingSignal }, store := none,
      event := some (.pkt d.seq d.cmd d.payloadView d.len) }
  else d.takeError .invalidTerminator

end Sys2Proof.Machine
end

