-- ==== Sys2Proof/Machine/Receiver.lean ====
section
/-!
DEFINITION. The frame decoder (spec/44_frame_decoder.md): `DEC_NEW` (R170), `DEC_BYTE` (R171) with its two pre-checks
(R172, R173, R175), the `DECSTATE` and `BYTE` rows of the table, and `DEC_FEED` (R83).
-/

namespace Sys2Proof.Machine

/-- `SYNC()` (R173): an in-progress frame is aborted with `new_packet`; the state becomes `expect_separator` and the
accumulators are cleared. `dec.crc` and the buffer are not touched. -/
def Decoder.sync (d : Decoder) : ByteEffect :=
  if d.inProgress then { d.takeError .newPacket with decoder := (d.takeError .newPacket).decoder.clearAcc }
  else ({ d.clearAcc with state := .expectSeparator } : Decoder).quiet

/-- `STUFF_CHECK(b)` (R175): a stuffing byte is folded unless the state is `expect_crc`, and discarded; any other byte
is an error. -/
def Decoder.stuffCheck (d : Decoder) (b : Byte) : ByteEffect :=
  if b = STUFF then if d.state = .expectCrc then d.quiet else (d.foldCrc b).quiet
  else d.takeError .invalidStuffByte

/-- `HANDLER[dec.state](b)` (R171, stage 3). -/
def Decoder.handle (d : Decoder) (b : Byte) : ByteEffect :=
  match d.state with
  | .waitingSignal => d.onWaitingSignal b
  | .expectSeparator => d.onExpectSeparator b
  | .expectSeq => d.onExpectSeq b
  | .expectCmd => d.onExpectCmd b
  | .expectLength => d.onExpectLength b
  | .expectData => d.onExpectData b
  | .expectCrc => d.onExpectCrc b
  | .expectTerminator => d.onExpectTerminator b

/-- `DEC_BYTE(dec, b)` (R171): stage 1, then stage 2, then stage 3. -/
def Decoder.receive (d : Decoder) (b : Byte) : ByteEffect :=
  if d.syncs b then (d.countByte b).sync
  else if d.stuffChecks b then (d.countByte b).stuffCheck b
  else (d.countByte b).handle b

/-- One byte is received on a link. -/
def State.receive (s : State) (link : Ref) (b : Byte) : Host.Outcome State Fault Refusal :=
  s.onDecoder link (fun d => d.receive b)

/-- `DEC_NEW buffer, capacity, on_packet, on_error` (R170, R260): the context of the link is constructed, or reset. The
buffer is not written. A buffer that another link's context holds is refused (R36, U4). -/
def execDecNew (link buffer : Ref) (capacity : Word) (onPacket : Ref) (onError : Option Ref) (s : State) :
    Host.Outcome State Fault Refusal :=
  if s.bufferTaken link buffer then .refused (.bufferShared buffer)
  else .next ((s.setDecoder link (Decoder.fresh buffer capacity onPacket onError)).setResult .none)

/-- `DEC_BYTE dec, b` (R171). -/
def execDecByte (link : Ref) (b : Byte) (s : State) : Host.Outcome State Fault Refusal :=
  s.receive link b

/-- One byte is received on a link whose decoder is in the state that a `DECSTATE` row names. It is the whole of
`DEC_BYTE`, stages 1 and 2 included, because nothing but `DEC_NEW` and `DEC_BYTE` writes a register of a decoder (R246);
the handler sees only the bytes that those stages leave. In another state the row is refused (R84, R190;
notes/assumptions/5.md). -/
def State.receiveIn (s : State) (link : Ref) (h : DecState) (b : Byte) : Host.Outcome State Fault Refusal :=
  match s.decoder link with
  | none => .refused (.contextNotConstructed link)
  | some d => if d.state = h then s.receive link b else .refused (.handlerNotSelected h)

/-- `ST_WAITING_SIGNAL` (R171, R176): a byte is received in `waiting_signal`. -/
def execStWaitingSignal (link : Ref) (b : Byte) (s : State) : Host.Outcome State Fault Refusal :=
  s.receiveIn link .waitingSignal b

/-- `ST_EXPECT_SEPARATOR` (R171, R177): a byte is received in `expect_separator`. -/
def execStExpectSeparator (link : Ref) (b : Byte) (s : State) : Host.Outcome State Fault Refusal :=
  s.receiveIn link .expectSeparator b

/-- `ST_EXPECT_SEQ` (R171, R178): a byte is received in `expect_seq`. -/
def execStExpectSeq (link : Ref) (b : Byte) (s : State) : Host.Outcome State Fault Refusal :=
  s.receiveIn link .expectSeq b

/-- `ST_EXPECT_CMD` (R171, R179): a byte is received in `expect_cmd`. -/
def execStExpectCmd (link : Ref) (b : Byte) (s : State) : Host.Outcome State Fault Refusal :=
  s.receiveIn link .expectCmd b

/-- `ST_EXPECT_LENGTH` (R171, R180): a byte is received in `expect_length`. -/
def execStExpectLength (link : Ref) (b : Byte) (s : State) : Host.Outcome State Fault Refusal :=
  s.receiveIn link .expectLength b

/-- `ST_EXPECT_DATA` (R171, R181): a byte is received in `expect_data`. -/
def execStExpectData (link : Ref) (b : Byte) (s : State) : Host.Outcome State Fault Refusal :=
  s.receiveIn link .expectData b

/-- `ST_EXPECT_CRC` (R171, R182): a byte is received in `expect_crc`. -/
def execStExpectCrc (link : Ref) (b : Byte) (s : State) : Host.Outcome State Fault Refusal :=
  s.receiveIn link .expectCrc b

/-- `ST_EXPECT_TERMINATOR` (R171, R183): a byte is received in `expect_terminator`. -/
def execStExpectTerminator (link : Ref) (b : Byte) (s : State) : Host.Outcome State Fault Refusal :=
  s.receiveIn link .expectTerminator b

/-- `BYTE_SIGNAL` (R172, R173): a byte `AA` is received. It is counted; the third or later of a run syncs, the first or
second goes on to the handler. -/
def execByteSignal (link : Ref) (s : State) : Host.Outcome State Fault Refusal :=
  s.receive link SIGNAL

/-- `BYTE_STUFF` (R175): a byte `00` is received. It is a stuffing byte when the run counter is 2; otherwise R78 gives
the same byte another class, and that is what it does: the decoder accepts every byte in every state (R40). -/
def execByteStuff (link : Ref) (s : State) : Host.Outcome State Fault Refusal :=
  s.receive link STUFF

/-- `BYTE_SEPARATOR` (R177): a byte `00` is received. It is a separator in `expect_separator`; otherwise R78 gives the
same byte another class (R40). -/
def execByteSeparator (link : Ref) (s : State) : Host.Outcome State Fault Refusal :=
  s.receive link SEPARATOR

/-- `BYTE_TERMINATOR` (R183): a byte `55` is received. It is a terminator in `expect_terminator`; otherwise R78 gives
the same byte another class (R40). -/
def execByteTerminator (link : Ref) (s : State) : Host.Outcome State Fault Refusal :=
  s.receive link TERMINATOR

/-- `BYTE_VARINT_CONT` (R73, R121): a byte with bit 7 set and group `g` is received. -/
def execByteVarintCont (link : Ref) (g : BitVec 7) (s : State) : Host.Outcome State Fault Refusal :=
  s.receive link (varintByte true g)

/-- `BYTE_VARINT_LAST` (R73, R121): a byte with bit 7 clear and group `g` is received. -/
def execByteVarintLast (link : Ref) (g : BitVec 7) (s : State) : Host.Outcome State Fault Refusal :=
  s.receive link (varintByte false g)

/-- `DEC_FEED(dec, A)` (R83): `DEC_BYTE` of each byte in order, stopping where a step stops. -/
def State.feed (s : State) (link : Ref) : List Byte → Host.Outcome State Fault Refusal
  | [] => .next s
  | b :: rest =>
    match execDecByte link b s with
    | .next s' => s'.feed link rest
    | .fault f => .fault f
    | .refused r => .refused r

end Sys2Proof.Machine
end

