-- ==== Sys2Proof/Machine/Dispatch.lean ====
section
/-!
DEFINITION. Which meaning each instruction has: one arm per row of spec/opcode_table.json.
-/

namespace Sys2Proof.Machine

/-- The meaning of an instruction in a state. -/
def exec (i : Instr) (s : State) : Host.Outcome State Fault Refusal :=
  match i with
  | .crcStart => Sys2Proof.Machine.execCrcStart s
  | .crcUpdate crc b => Sys2Proof.Machine.execCrcUpdate crc b s
  | .crcFinish crc => Sys2Proof.Machine.execCrcFinish crc s
  | .varintEnc v => Sys2Proof.Machine.execVarintEnc v s
  | .varintDecStep acc b => Sys2Proof.Machine.execVarintDecStep acc b s
  | .wrInit w sink => Sys2Proof.Machine.execWrInit w sink s
  | .wrByte w b => Sys2Proof.Machine.execWrByte w b s
  | .encode sink seq cmd payload => Sys2Proof.Machine.execEncode sink seq cmd payload s
  | .decNew link buffer capacity onPacket onError => Sys2Proof.Machine.execDecNew link buffer capacity onPacket onError s
  | .decByte link b => Sys2Proof.Machine.execDecByte link b s
  | .stWaitingSignal link b => Sys2Proof.Machine.execStWaitingSignal link b s
  | .stExpectSeparator link b => Sys2Proof.Machine.execStExpectSeparator link b s
  | .stExpectSeq link b => Sys2Proof.Machine.execStExpectSeq link b s
  | .stExpectCmd link b => Sys2Proof.Machine.execStExpectCmd link b s
  | .stExpectLength link b => Sys2Proof.Machine.execStExpectLength link b s
  | .stExpectData link b => Sys2Proof.Machine.execStExpectData link b s
  | .stExpectCrc link b => Sys2Proof.Machine.execStExpectCrc link b s
  | .stExpectTerminator link b => Sys2Proof.Machine.execStExpectTerminator link b s
  | .byteSignal link => Sys2Proof.Machine.execByteSignal link s
  | .byteStuff link => Sys2Proof.Machine.execByteStuff link s
  | .byteSeparator link => Sys2Proof.Machine.execByteSeparator link s
  | .byteTerminator link => Sys2Proof.Machine.execByteTerminator link s
  | .byteVarintCont link g => Sys2Proof.Machine.execByteVarintCont link g s
  | .byteVarintLast link g => Sys2Proof.Machine.execByteVarintLast link g s

end Sys2Proof.Machine
end

