-- ==== Sys2Proof/Machine/Fetch.lean ====
section
/-!
DEFINITION. Taking the next request. The block fetches no instruction stream: what is executed next is decided by the
caller (spec/10_state.md rule R30). The pending requests stand in the state, and a step takes the first.
-/

namespace Sys2Proof.Machine

/-- What the fetch finds. -/
inductive Fetched where
  /-- No request is pending: between operations the block holds its state (R250). -/
  | idle
  /-- An instruction, and the state with its request taken. -/
  | taken (i : Instr) (s : State)
  /-- A request that is no instruction. -/
  | bad (r : Refusal)

/-- Take the first pending request. -/
def State.fetch (s : State) : Fetched :=
  match s.requests with
  | [] => .idle
  | b :: rest =>
    match decode (b :: rest) with
    | .ok (i, after) => .taken i (s.setRequests after)
    | .error e => .bad (refusalOf e)

/-- Place the bytes of a table word, and zeros up to the longest request without a payload, before the pending
requests. -/
def State.placeWord (s : State) (nbits w : Nat) : State :=
  s.setRequests (tableWordBytes nbits w ++ s.requests)

end Sys2Proof.Machine
end

