-- ==== Sys2Proof/Machine/Step.lean ====
section
/-!
DEFINITION. One step of the machine: one complete operation (spec/00_scope.md rule R7), the first that a caller has
requested and the block has not yet taken.
-/

namespace Sys2Proof.Machine

/-- One step. With no request pending the block holds its state (R250); it never acts on its own initiative (R240). -/
def step (s : State) : Host.Outcome State Fault Refusal :=
  match s.fetch with
  | .idle => .next s
  | .taken i s' => exec i s'
  | .bad r => .refused r

/-- `s` with the instruction that a table word selects, every operand byte zero, as the next request. -/
def State.withFetchWord (s : State) (nbits w : Nat) : State :=
  s.placeWord nbits w

end Sys2Proof.Machine
end

