-- ==== Sys2Proof/Safety.lean ====
section
/-!
DEFINITION. The terms in which claims about runs are stated: the invariant of the reachable states (spec/10_state.md rule
R32 with what it takes to be kept by every step), the transition relation of the decoder as spec/44_frame_decoder.md rule
R190 tabulates it, and which contexts, which byte and which store an instruction has.
-/

namespace Sys2Proof.Machine

/-- What holds of a decoder context between steps. Clause (b) of R32: `crc_n` is 0 unless the state is `expect_crc` or
`waiting_signal`. Clause (c): in `expect_data`, `count < len <= CAP`. Clause (d): in `expect_crc` and
`expect_terminator`, `count = len <= CAP`. Besides: no payload byte is counted before `expect_data` (R174), and in
`expect_separator` the run counter is 3 (R175 corner case d). Clause (a) is the width of `sigcnt`. -/
def Decoder.Inv (d : Decoder) : Prop :=
  match d.state with
  | .waitingSignal => True
  | .expectSeparator => d.sigcnt = 3#2 ∧ d.count = 0#32 ∧ d.crcN = 0#2
  | .expectSeq => d.count = 0#32 ∧ d.crcN = 0#2
  | .expectCmd => d.count = 0#32 ∧ d.crcN = 0#2
  | .expectLength => d.count = 0#32 ∧ d.crcN = 0#2
  | .expectData => d.count < d.len ∧ d.len ≤ d.cap ∧ d.crcN = 0#2
  | .expectCrc => d.count = d.len ∧ d.len ≤ d.cap
  | .expectTerminator => d.count = d.len ∧ d.len ≤ d.cap ∧ d.crcN = 0#2

/-- The states in which `dec.count` bytes of the frame in progress stand in the buffer (R53). -/
def Decoder.holdsPayload (d : Decoder) : Bool :=
  d.state = .expectData || d.state = .expectCrc || d.state = .expectTerminator

/-- What holds of the whole state between steps. -/
structure State.Inv (s : State) : Prop where
  /-- The tables are in canonical form. -/
  decodersWf : Slots.wf s.decoders = true
  writersWf : Slots.wf s.writers = true
  memoryWf : s.memory.wf = true
  /-- Every entry of a table is under a name. -/
  decoderNames : ∀ p ∈ s.decoders, p.1 < 2 ^ 8
  writerNames : ∀ p ∈ s.writers, p.1 < 2 ^ 8
  /-- Every stored byte is in the window of a buffer (R50). -/
  memoryInBuffers : ∀ p ∈ s.memory, p.1 < 2 ^ 40
  /-- R32 for every decoder context. -/
  decoderInv : ∀ p ∈ s.decoders, p.2.Inv
  /-- R32 clause (e) for every writer context. -/
  writerCount : ∀ p ∈ s.writers, p.2.sigcnt = 0#2 ∨ p.2.sigcnt = 1#2
  /-- No two decoder contexts hold one buffer (R36). -/
  buffersApart : ∀ p ∈ s.decoders, ∀ q ∈ s.decoders, p.1 ≠ q.1 → p.2.buf ≠ q.2.buf
  /-- The counted payload bytes of a frame in progress have been stored (R53, R54). -/
  payloadStored : ∀ p ∈ s.decoders, p.2.holdsPayload = true →
    ∀ i < p.2.count.toNat, (s.memory.read p.2.buf i).isSome = true

/-- The completed or partial length after this byte, as the table of R190 uses it ("new `len`"). -/
def Decoder.newLen (d : Decoder) (b : Byte) : Word :=
  (d.len <<< 7) ||| (b &&& 0x7F#8).setWidth 32

/-- The received CRC after this byte, as R76 assembles it. -/
def Decoder.newCrcRx (d : Decoder) (b : Byte) : Word :=
  (d.crcRx <<< 8) ||| b.setWidth 32

/-- The transition relation of `dec.state` and the event of the step, row by row from the top as R190 tabulates it: the
first row whose condition holds applies. -/
def Decoder.transition (d : Decoder) (b : Byte) : DecState × Option Event :=
  if b = 0xAA#8 ∧ 2#2 ≤ d.sigcnt then
    (.expectSeparator, if d.state = .waitingSignal then none else some (.err .newPacket))
  else if b = 0x00#8 ∧ d.sigcnt = 2#2 then (d.state, none)
  else if d.sigcnt = 2#2 ∧ b ≠ 0xAA#8 then (.waitingSignal, some (.err .invalidStuffByte))
  else match d.state with
  | .waitingSignal => (.waitingSignal, none)
  | .expectSeparator =>
    if b = 0x00#8 then (.expectSeq, none) else (.waitingSignal, some (.err .invalidSeparatorByte))
  | .expectSeq => if 0x80#8 ≤ b then (.expectSeq, none) else (.expectCmd, none)
  | .expectCmd => if 0x80#8 ≤ b then (.expectCmd, none) else (.expectLength, none)
  | .expectLength =>
    if 0x80#8 ≤ b then (.expectLength, none)
    else if d.cap < d.newLen b then (.waitingSignal, some (.err .tooLarge))
    else if d.newLen b = 0#32 then (.expectCrc, none)
    else (.expectData, none)
  | .expectData => if d.count + 1#32 = d.len then (.expectCrc, none) else (.expectData, none)
  | .expectCrc =>
    if d.crcN ≠ 3#2 then (.expectCrc, none)
    else if d.crc ^^^ 0xFFFFFFFF#32 = d.newCrcRx b then (.expectTerminator, none)
    else (.waitingSignal, some (.err .checksumMismatch))
  | .expectTerminator =>
    if b = 0x55#8 then
      (.waitingSignal,
        some (.pkt d.seq d.cmd (if d.len = 0#32 then none else some { buf := d.buf, len := d.len }) d.len))
    else (.waitingSignal, some (.err .invalidTerminator))

/-- What the consumers of a context see of an event (R41, R42, R222): `PKT` always goes to the packet consumer, `ERR`
to the error consumer if there is one. -/
def Decoder.deliveries (d : Decoder) (link : Ref) : Option Event → List Emission
  | none => []
  | some (.pkt seq cmd payload len) => [{ link := link, consumer := d.onPacket, event := .pkt seq cmd payload len }]
  | some (.err c) =>
    match d.onError with
    | none => []
    | some k => [{ link := link, consumer := k, event := .err c }]

/-- The decoder context an instruction names, if it names one. -/
def linkOf (i : Instr) : Option Ref :=
  match i with
  | .crcStart => none
  | .crcUpdate _ _ => none
  | .crcFinish _ => none
  | .varintEnc _ => none
  | .varintDecStep _ _ => none
  | .wrInit _ _ => none
  | .wrByte _ _ => none
  | .encode _ _ _ _ => none
  | .decNew link _ _ _ _ => some link
  | .decByte link _ => some link
  | .stWaitingSignal link _ => some link
  | .stExpectSeparator link _ => some link
  | .stExpectSeq link _ => some link
  | .stExpectCmd link _ => some link
  | .stExpectLength link _ => some link
  | .stExpectData link _ => some link
  | .stExpectCrc link _ => some link
  | .stExpectTerminator link _ => some link
  | .byteSignal link => some link
  | .byteStuff link => some link
  | .byteSeparator link => some link
  | .byteTerminator link => some link
  | .byteVarintCont link _ => some link
  | .byteVarintLast link _ => some link

/-- The writer context an instruction names, if it names one. -/
def writerOf (i : Instr) : Option Ref :=
  match i with
  | .crcStart => none
  | .crcUpdate _ _ => none
  | .crcFinish _ => none
  | .varintEnc _ => none
  | .varintDecStep _ _ => none
  | .wrInit w _ => some w
  | .wrByte w _ => some w
  | .encode _ _ _ _ => none
  | .decNew _ _ _ _ _ => none
  | .decByte _ _ => none
  | .stWaitingSignal _ _ => none
  | .stExpectSeparator _ _ => none
  | .stExpectSeq _ _ => none
  | .stExpectCmd _ _ => none
  | .stExpectLength _ _ => none
  | .stExpectData _ _ => none
  | .stExpectCrc _ _ => none
  | .stExpectTerminator _ _ => none
  | .byteSignal _ => none
  | .byteStuff _ => none
  | .byteSeparator _ => none
  | .byteTerminator _ => none
  | .byteVarintCont _ _ => none
  | .byteVarintLast _ _ => none

/-- The byte that an instruction presents to a decoder, and its link: the operand of `DEC_BYTE` and of the `DECSTATE` rows,
the pattern of the `BYTE` rows (R78, R84). -/
def receivedBy (i : Instr) : Option (Ref × Byte) :=
  match i with
  | .crcStart => none
  | .crcUpdate _ _ => none
  | .crcFinish _ => none
  | .varintEnc _ => none
  | .varintDecStep _ _ => none
  | .wrInit _ _ => none
  | .wrByte _ _ => none
  | .encode _ _ _ _ => none
  | .decNew _ _ _ _ _ => none
  | .decByte link b => some (link, b)
  | .stWaitingSignal link b => some (link, b)
  | .stExpectSeparator link b => some (link, b)
  | .stExpectSeq link b => some (link, b)
  | .stExpectCmd link b => some (link, b)
  | .stExpectLength link b => some (link, b)
  | .stExpectData link b => some (link, b)
  | .stExpectCrc link b => some (link, b)
  | .stExpectTerminator link b => some (link, b)
  | .byteSignal link => some (link, 0xAA#8)
  | .byteStuff link => some (link, 0x00#8)
  | .byteSeparator link => some (link, 0x00#8)
  | .byteTerminator link => some (link, 0x55#8)
  | .byteVarintCont link g => some (link, 1#1 ++ g)
  | .byteVarintLast link g => some (link, 0#1 ++ g)

/-- Stage 3 sees the byte (R78): the first or second signal byte of a run, or another byte after any run but one of
exactly two. -/
def Decoder.reachesHandler (d : Decoder) (b : Byte) : Bool :=
  if b = 0xAA#8 then d.sigcnt < 2#2 else d.sigcnt ≠ 2#2

/-- `dec.sigcnt` after a byte that stage 3 sees (R172). -/
def Decoder.runAfter (d : Decoder) (b : Byte) : BitVec 2 :=
  if b = 0xAA#8 then d.sigcnt + 1#2 else 0#2

/-- The store an instruction makes if it completes (R52, R53): the buffer and offset it stores to, which are `dec.buf` and
`dec.count` of the context it names, and the byte. Only a byte that stage 3 sees in `expect_data` is stored. -/
def storeOf (i : Instr) (s : State) : Option (Ref × Nat × Byte) :=
  match receivedBy i with
  | none => none
  | some (link, b) =>
    match s.decoder link with
    | none => none
    | some d => if d.state = .expectData ∧ d.reachesHandler b = true then some (d.buf, d.count.toNat, b) else none

/-- The row of format `DECSTATE` that a decoder state selects (R84), with its operands. -/
def DecState.row (h : DecState) (link : Ref) (b : Byte) : Instr :=
  match h with
  | .waitingSignal => .stWaitingSignal link b
  | .expectSeparator => .stExpectSeparator link b
  | .expectSeq => .stExpectSeq link b
  | .expectCmd => .stExpectCmd link b
  | .expectLength => .stExpectLength link b
  | .expectData => .stExpectData link b
  | .expectCrc => .stExpectCrc link b
  | .expectTerminator => .stExpectTerminator link b

end Sys2Proof.Machine
end

