-- ==== Sys2Proof/Certificates/Slice0/Obligations.lean ====
section
/-!
DEFINITION. The statements for the provers. Each docstring names the rule of spec/ that the statement formalises.
-/

open Sys2Proof Sys2Proof.Machine

/-! ### Requests -/

/-- Decoding the request of a well-formed instruction gives the instruction and leaves the bytes after it; and whatever
decodes is well-formed. The `op` codes are those of R84; the operand layout is the model's (assumption 2). -/
def Obligations.DecodeReturnsTheEncodedInstruction : Prop :=
  (∀ (i : Instr) (rest : List Byte), i.wellFormed = true → decode (encode i ++ rest) = .ok (i, rest)) ∧
  (∀ (bs : List Byte) (i : Instr) (rest : List Byte), decode bs = .ok (i, rest) → i.wellFormed = true)

/-- A step runs the first pending request and takes it; it holds the state when none is pending; it refuses, by name,
what is no instruction. -/
def Obligations.StepRunsTheFirstPendingRequest : Prop :=
  (∀ (s : State) (i : Instr) (rest : List Byte),
    decode s.requests = .ok (i, rest) → step s = exec i { s with requests := rest }) ∧
  (∀ s : State, s.requests = [] → step s = .next s) ∧
  (∀ (s : State) (e : DecodeError), s.requests ≠ [] → decode s.requests = .error e → step s = .refused (refusalOf e))

/-- Requests written out by hand from the `op` codes of R84 and the row places of the model's layout decode to the
instructions they stand for. Of the table's own words, `08`, `55` and `AA` are each claimed by a second row (R84:
`BYTE_VARINT_LAST`, `BYTE_VARINT_LAST`, `BYTE_VARINT_CONT`); which row wins is the model's choice (assumption 2). -/
def Obligations.WordsOfTheTableDecode : Prop :=
  decode [0x01#8, 0x78#8, 0x56#8, 0x34#8, 0x12#8, 0x9A#8] = .ok (.crcUpdate 0x12345678#32 0x9A#8, []) ∧
  decode [0x03#8, 0x00#8, 0x40#8, 0x00#8, 0x00#8] = .ok (.varintEnc 16384#32, []) ∧
  decode [0x06#8, 0x02#8, 0xAA#8] = .ok (.wrByte 0x02#8 0xAA#8, []) ∧
  decode [0x09#8, 0x01#8, 0x55#8] = .ok (.decByte 0x01#8 0x55#8, []) ∧
  decode [0x15#8, 0x01#8, 0x68#8] = .ok (.stExpectData 0x01#8 0x68#8, []) ∧
  decodeTableWord 8 0x08 = some (.decNew 0#8 0#8 0#32 0#8 none) ∧
  decodeTableWord 8 0xAA = some (.byteSignal 0#8) ∧
  decodeTableWord 8 0x55 = some (.byteTerminator 0#8) ∧
  decodeTableWord 8 0x80 = some (.byteVarintCont 0#8 0#7)

/-- R84, U8: the `op` codes 0xA to 0xF are reserved; the model refuses them. -/
def Obligations.ReservedOperationCodesAreRefused : Prop :=
  ∀ (s : State) (op : BitVec 4) (rest : List Byte),
    s.requests = (0#4 ++ op) :: rest → 10 ≤ op.toNat → step s = .refused (.reservedOpCode op)

/-! ### The CRC-32 engine -/

/-- R100: the result is `0xFFFFFFFF` in every state, and nothing else changes. -/
def Obligations.CrcStartYieldsTheFreshAccumulator : Prop :=
  ∀ s : State, exec .crcStart s = .next { s with result := .word 0xFFFFFFFF#32 }

/-- R101: `crc' = T[crc[7:0] XOR b] XOR (crc >> 8)`; nothing else changes. -/
def Obligations.CrcUpdateIsTheTableFormula : Prop :=
  ∀ (s : State) (crc : Word) (b : Byte),
    exec (.crcUpdate crc b) s =
      .next { s with
        result := .word (crcTable.getD (crc.extractLsb' 0 8 ^^^ b).toNat 0#32 ^^^ (crc >>> 8)) }

/-- R102: `f = crc XOR 0xFFFFFFFF`; nothing else changes. -/
def Obligations.CrcFinishXorsTheAccumulator : Prop :=
  ∀ (s : State) (crc : Word), exec (.crcFinish crc) s = .next { s with result := .word (crc ^^^ 0xFFFFFFFF#32) }

/-- R103: the table has 256 entries, and entry `i` is `i` after eight shift steps of the reflected polynomial. -/
def Obligations.CrcTableIsBuiltFromThePolynomial : Prop :=
  crcTable.length = 256 ∧
  ∀ i : Byte, crcTable.getD i.toNat 0#32 =
    crcShift (crcShift (crcShift (crcShift (crcShift (crcShift (crcShift (crcShift (i.setWidth 32))))))))

/-- R104: the table form and the bit-serial form agree on every accumulator and byte, written with the shift step of
R104 itself. -/
def Obligations.CrcUpdateEqualsEightShiftSteps : Prop :=
  ∀ (crc : Word) (b : Byte),
    crcUpdate crc b =
      (fun c : Word => if c.getLsbD 0 then (c >>> 1) ^^^ 0xEDB88320#32 else c >>> 1)^[8] (crc ^^^ b.setWidth 32)

/-- R101 corner case b and the last step of R271: a zero byte leaves the accumulator 0, and no other, unchanged. -/
def Obligations.ZeroByteFixesOnlyTheZeroAccumulator : Prop :=
  ∀ crc : Word, crcUpdate crc 0x00#8 = crc ↔ crc = 0#32

/-- What R239 rests on (G4, G6): two byte sequences that differ in one byte have different CRCs. -/
def Obligations.OneChangedByteChangesTheCrc : Prop :=
  ∀ (before after : List Byte) (x y : Byte), x ≠ y → crc32 (before ++ x :: after) ≠ crc32 (before ++ y :: after)

/-! ### The varint codec -/

/-- R74: the bytes of a value by its range, most-significant group first, bit 7 set on every byte but the last. -/
def Obligations.VarintEncodingFollowsTheRangeTable : Prop :=
  ∀ (s : State) (v : Word),
    exec (.varintEnc v) s = .next { s with result := .bytes (
      if v.toNat ≤ 127 then [0#1 ++ v.extractLsb' 0 7]
      else if v.toNat ≤ 16383 then [1#1 ++ v.extractLsb' 7 7, 0#1 ++ v.extractLsb' 0 7]
      else if v.toNat ≤ 2097151 then
        [1#1 ++ v.extractLsb' 14 7, 1#1 ++ v.extractLsb' 7 7, 0#1 ++ v.extractLsb' 0 7]
      else if v.toNat ≤ 268435455 then
        [1#1 ++ v.extractLsb' 21 7, 1#1 ++ v.extractLsb' 14 7, 1#1 ++ v.extractLsb' 7 7, 0#1 ++ v.extractLsb' 0 7]
      else
        [1#1 ++ (v.extractLsb' 28 4).setWidth 7, 1#1 ++ v.extractLsb' 21 7, 1#1 ++ v.extractLsb' 14 7,
          1#1 ++ v.extractLsb' 7 7, 0#1 ++ v.extractLsb' 0 7]) }

/-- R121: the accumulator shifts left by 7 inside 32 bits and takes `b[6:0]`; `done` is that `b[7]` is 0. -/
def Obligations.VarintStepFoldsOneByte : Prop :=
  ∀ (s : State) (acc : Word) (b : Byte),
    exec (.varintDecStep acc b) s =
      .next { s with result := .varint ((acc <<< 7) ||| (b.extractLsb' 0 7).setWidth 32) (!b.getLsbD 7) }

/-- R122: decoding the bytes of `VARINT_ENC(v)` from 0 gives `v`, done on the last byte and on no earlier one. -/
def Obligations.VarintDecodingInvertsEncoding : Prop :=
  ∀ (v : Word) (rest : List Byte), varintDecode 0#32 (varintBytes v ++ rest) = (v, true, rest)

/-- R123: any number of continuation bytes and a last byte decode to the low 32 bits of the mathematical value, and
continuation bytes alone never complete. -/
def Obligations.OverlongVarintIsTruncated : Prop :=
  (∀ (cs : List Byte) (b : Byte) (rest : List Byte), (∀ c ∈ cs, c.msb = true) → b.msb = false →
    varintDecode 0#32 (cs ++ b :: rest) =
      (BitVec.ofNat 32 ((cs ++ [b]).foldl (fun a c => a * 128 + c.toNat % 128) 0), true, rest)) ∧
  (∀ (cs : List Byte) (acc : Word), (∀ c ∈ cs, c.msb = true) → (varintDecode acc cs).2 = (false, []))

/-- R120 corner cases a to d, R75: 1 to 5 bytes, the first never `80`, bit 7 clear on the last byte only, so that no
header field ends in `AA`. -/
def Obligations.OnlyTheLastVarintByteHasBitSevenClear : Prop :=
  ∀ v : Word, ∃ (init : List Byte) (last : Byte),
    varintBytes v = init ++ [last] ∧ init.length ≤ 4 ∧ (∀ c ∈ init, c.msb = true) ∧ last.msb = false ∧
    last ≠ 0xAA#8 ∧ (varintBytes v).head? ≠ some 0x80#8

/-! ### The stuffing writer -/

/-- R140: a fresh accumulator and a zero counter under the caller's name, bound to the sink; nothing is sent, and every
other writer context is as it was. -/
def Obligations.WriterStartsFresh : Prop :=
  ∀ (s : State) (w sink : Ref), ∃ t : State,
    exec (.wrInit w sink) s = .next t ∧
    t.writer w = some { crc := 0xFFFFFFFF#32, sigcnt := 0#2, sink := sink } ∧
    (∀ w', w' ≠ w → t.writer w' = s.writer w') ∧
    t.sent = s.sent ∧ t.events = s.events ∧ t.decoders = s.decoders ∧ t.memory = s.memory ∧
    t.requests = s.requests ∧ t.result = .none

/-- R141: the byte is sent and folded; a second consecutive signal byte is followed at once by a sent and folded `00`
and a zero counter; a byte that is not `SIGNAL` zeroes the counter. -/
def Obligations.WriterStuffsAfterASecondSignal : Prop :=
  ∀ (s : State) (w : Ref) (b : Byte) (x : Machine.Writer), s.writer w = some x →
    exec (.wrByte w b) s = .next { s with
      writers := Slots.put w.toNat
        (if b ≠ 0xAA#8 then { x with crc := crcUpdate x.crc b, sigcnt := 0#2 }
         else if x.sigcnt = 1#2 then { x with crc := crcUpdate (crcUpdate x.crc b) 0x00#8, sigcnt := 0#2 }
         else { x with crc := crcUpdate x.crc b, sigcnt := x.sigcnt + 1#2 }) s.writers,
      sent := s.sent ++ (if b = 0xAA#8 ∧ x.sigcnt = 1#2 then [(x.sink, b), (x.sink, 0x00#8)] else [(x.sink, b)]),
      result := .none }

/-- R142, R143: a fresh writer sends the stuffed form of the bytes written, its accumulator covers every byte sent, and
its counter is the length of the trailing signal run modulo 2, so 0 or 1; nothing else of the state changes. -/
def Obligations.WriterSendsTheStuffedBytes : Prop :=
  ∀ (s s0 : State) (w sink : Ref) (bs : List Byte), exec (.wrInit w sink) s = .next s0 → ∃ t : State,
    s0.write w bs = .next t ∧
    t.sent = s.sent ++ (stuffed bs).map (fun b => (sink, b)) ∧
    t.writer w = some { crc := crcFold 0xFFFFFFFF#32 (stuffed bs), sigcnt := BitVec.ofNat 2 (trailingSignals bs % 2),
                        sink := sink } ∧
    (∀ w', w' ≠ w → t.writer w' = s.writer w') ∧
    t.events = s.events ∧ t.decoders = s.decoders ∧ t.memory = s.memory ∧ t.requests = s.requests

/-- R143 properties a and b: removing the inserted bytes gives the input back; two consecutive signal bytes in the
stuffed form are always followed by `00`, so three never stand together. -/
def Obligations.StuffingIsReversibleAndGuardsEveryPair : Prop :=
  (∀ bs : List Byte, destuffed (stuffed bs) = bs) ∧
  (∀ bs before after : List Byte, stuffed bs = before ++ [0xAA#8, 0xAA#8] ++ after → after.head? = some 0x00#8)

/-! ### The packet encoder -/

/-- R155, R156: `ENCODE` sends exactly the frame of R70 to its sink and changes nothing else; that a payload
whose length has no 32-bit value is refused is assumption 11, read from R44 and U12. -/
def Obligations.EncodeSendsExactlyTheFrame : Prop :=
  ∀ (s : State) (sink : Ref) (seq cmd : Word) (payload : List Byte),
    (payload.length < 2 ^ 32 → exec (.encode sink seq cmd payload) s =
      .next { s with sent := s.sent ++ (frame seq cmd payload).map (fun b => (sink, b)), result := .none }) ∧
    (2 ^ 32 ≤ payload.length → exec (.encode sink seq cmd payload) s = .refused .payloadTooLong)

/-- R72: the length of a frame and of its covered region, with `k` inserted bytes, and the bound on `k`. -/
def Obligations.FrameLengthFollowsItsFields : Prop :=
  ∀ (seq cmd : Word) (payload : List Byte), payload.length < 2 ^ 32 → ∃ k : Nat,
    (frame seq cmd payload).length = 3 + (coveredRegion seq cmd payload).length + 4 + 1 ∧
    (coveredRegion seq cmd payload).length =
      1 + (varintBytes seq).length + (varintBytes cmd).length +
        (varintBytes (BitVec.ofNat 32 payload.length)).length + payload.length + k ∧
    k ≤ ((coveredRegion seq cmd payload).length - k - 1) / 2

/-! ### Construction and reset -/

/-- R170, R260, R262: the context of the link has state code 0, every register zero and the operands as configuration,
whatever it held before; nothing is stored, emitted or sent, and no other context changes. A buffer that another link's
context holds is refused (U4). -/
def Obligations.DecNewConstructsOrResetsAContext : Prop :=
  ∀ (s : State) (link buffer onPacket : Ref) (capacity : Word) (onError : Option Ref),
    ((∀ p ∈ s.decoders, p.1 ≠ link.toNat → p.2.buf ≠ buffer) →
      exec (.decNew link buffer capacity onPacket onError) s = .next { s with
        decoders := Slots.put link.toNat
          { state := .waitingSignal, seq := 0#32, cmd := 0#32, len := 0#32, count := 0#32, crc := 0#32, crcRx := 0#32,
            crcN := 0#2, sigcnt := 0#2, buf := buffer, cap := capacity, onPacket := onPacket, onError := onError }
          s.decoders,
        result := .none }) ∧
    ((∃ p ∈ s.decoders, p.1 ≠ link.toNat ∧ p.2.buf = buffer) →
      exec (.decNew link buffer capacity onPacket onError) s = .refused (.bufferShared buffer))

/-- R45: after reset the decoder's nine registers are zero, there is no writer context, and no event or byte has left
the block. That the decoder stands on link 0, and its consumers' names, are the model's choice (assumption 4). -/
def Obligations.ResetHoldsOneZeroDecoder : Prop :=
  (∃ d : Decoder, State.reset.decoder 0#8 = some d ∧ d.state = .waitingSignal ∧ d.seq = 0#32 ∧ d.cmd = 0#32 ∧
    d.len = 0#32 ∧ d.count = 0#32 ∧ d.crc = 0#32 ∧ d.crcRx = 0#32 ∧ d.crcN = 0#2 ∧ d.sigcnt = 0#2 ∧
    d.cap = Config.cap ∧ d.onError.isSome = Config.hasOnError) ∧
  (∀ w : Ref, State.reset.writer w = none) ∧ State.reset.events = [] ∧ State.reset.sent = []

/-! ### One received byte -/

/-- R172 to R174, through `DEC_BYTE`: a signal byte that finds the run counter at 2 or 3 syncs. The state becomes
`expect_separator`, the six accumulators are cleared, the counter is 3, `crc` and the buffer keep their contents;
`new_packet` is emitted exactly when a frame was in progress. The row `BYTE_SIGNAL` does the same; that it is an
instruction is the model's choice (assumption 5). -/
def Obligations.ThirdSignalByteSyncs : Prop :=
  ∀ (s : State) (link : Ref) (d : Decoder) (i : Instr), s.decoder link = some d → 2#2 ≤ d.sigcnt →
    i = .decByte link 0xAA#8 ∨ i = .byteSignal link →
    exec i s = .next { s with
      decoders := Slots.put link.toNat
        { d with state := .expectSeparator, seq := 0#32, cmd := 0#32, len := 0#32, count := 0#32, crcRx := 0#32,
                 crcN := 0#2, sigcnt := 3#2 } s.decoders,
      events := s.events ++ d.deliveries link (if d.state = .waitingSignal then none else some (.err .newPacket)),
      result := .none }

/-- R175, through `DEC_BYTE`: after exactly two signal bytes a `00` is discarded, and folded into the CRC unless the state
is `expect_crc`. The row `BYTE_STUFF` does the same; that it is an instruction is the model's choice (assumption 5). -/
def Obligations.StuffingByteIsDiscarded : Prop :=
  ∀ (s : State) (link : Ref) (d : Decoder) (i : Instr), s.decoder link = some d → d.sigcnt = 2#2 →
    i = .decByte link 0x00#8 ∨ i = .byteStuff link →
    exec i s = .next { s with
      decoders := Slots.put link.toNat
        { d with sigcnt := 0#2, crc := if d.state = .expectCrc then d.crc else crcUpdate d.crc 0x00#8 } s.decoders,
      result := .none }

/-- R175, R228: after exactly two signal bytes a byte that is neither `AA` nor `00` is a desync, in every state. Only
the state and the run counter are written (R231). -/
def Obligations.WrongByteAfterAPairIsADesync : Prop :=
  ∀ (s : State) (link : Ref) (d : Decoder) (b : Byte), s.decoder link = some d → d.sigcnt = 2#2 →
    b ≠ 0xAA#8 → b ≠ 0x00#8 →
    exec (.decByte link b) s = .next { s with
      decoders := Slots.put link.toNat { d with state := .waitingSignal, sigcnt := 0#2 } s.decoders,
      events := s.events ++ d.deliveries link (some (.err .invalidStuffByte)),
      result := .none }

/-- R171: a byte that stages 1 and 2 do not consume is counted and handled by the handler that `dec.state` selects; and
the `DECSTATE` row of that state is the whole of `DEC_BYTE` on every byte, so that it writes what `DEC_BYTE` writes and
nothing else (R246; that the row is an instruction is assumption 5). -/
def Obligations.OtherBytesReachTheSelectedHandler : Prop :=
  ∀ (s : State) (link : Ref) (d : Decoder) (b : Byte), s.decoder link = some d →
    exec (d.state.row link b) s = exec (.decByte link b) s ∧
    (d.reachesHandler b = true →
      let d' : Decoder := { d with sigcnt := d.runAfter b }
      exec (.decByte link b) s = s.commit link (match d.state with
        | .waitingSignal => d'.onWaitingSignal b
        | .expectSeparator => d'.onExpectSeparator b
        | .expectSeq => d'.onExpectSeq b
        | .expectCmd => d'.onExpectCmd b
        | .expectLength => d'.onExpectLength b
        | .expectData => d'.onExpectData b
        | .expectCrc => d'.onExpectCrc b
        | .expectTerminator => d'.onExpectTerminator b))

/-- Each `BYTE` row is the reception of the byte whose pattern it has (R78, R84), also where the row's condition
of R84 does not hold (assumption 5). -/
def Obligations.ByteRowsReceiveTheirPattern : Prop :=
  ∀ (s : State) (link : Ref) (g : BitVec 7),
    exec (.byteSignal link) s = exec (.decByte link 0xAA#8) s ∧
    exec (.byteStuff link) s = exec (.decByte link 0x00#8) s ∧
    exec (.byteSeparator link) s = exec (.decByte link 0x00#8) s ∧
    exec (.byteTerminator link) s = exec (.decByte link 0x55#8) s ∧
    exec (.byteVarintCont link g) s = exec (.decByte link (1#1 ++ g)) s ∧
    exec (.byteVarintLast link g) s = exec (.decByte link (0#1 ++ g)) s

/-- R177, through `DEC_BYTE`: a `00` in `expect_separator` starts the CRC, which then is `0x2DFD1072`, clears the
accumulators and moves to `expect_seq`. The row `BYTE_SEPARATOR` does the same; that it is an instruction is the model's
choice (assumption 5). -/
def Obligations.SeparatorStartsTheHeader : Prop :=
  ∀ (s : State) (link : Ref) (d : Decoder) (i : Instr), s.decoder link = some d → d.state = .expectSeparator →
    d.sigcnt ≠ 2#2 → i = .decByte link 0x00#8 ∨ i = .byteSeparator link →
    exec i s = .next { s with
      decoders := Slots.put link.toNat
        { d with state := .expectSeq, seq := 0#32, cmd := 0#32, len := 0#32, count := 0#32, crc := 0x2DFD1072#32,
                 crcRx := 0#32, crcN := 0#2, sigcnt := 0#2 } s.decoders,
      result := .none }

/-- R183, through `DEC_BYTE`: a `55` in `expect_terminator` that does not follow exactly two signal bytes emits `PKT` with
the parsed fields, the payload null when the length is 0 and otherwise the decoder's own buffer, and returns to
`waiting_signal`. The row `BYTE_TERMINATOR` does the same; that it is an instruction is the model's choice
(assumption 5). -/
def Obligations.TerminatorDeliversThePacket : Prop :=
  ∀ (s : State) (link : Ref) (d : Decoder) (i : Instr), s.decoder link = some d → d.state = .expectTerminator →
    d.sigcnt ≠ 2#2 → i = .decByte link 0x55#8 ∨ i = .byteTerminator link →
    exec i s = .next { s with
      decoders := Slots.put link.toNat { d with state := .waitingSignal, sigcnt := 0#2 } s.decoders,
      events := s.events ++ [(⟨link, d.onPacket,
        .pkt d.seq d.cmd (if d.len = 0#32 then none else some { buf := d.buf, len := d.len }) d.len⟩ : Emission)],
      result := .none }

/-- R178 to R180, through the rows `BYTE_VARINT_CONT` and `BYTE_VARINT_LAST`, whose being instructions is the model's
choice (assumption 5), for a byte that stage 3 sees: in each varint state a continuation byte is folded into the CRC and
its group into the field, the state staying; a last byte moves `expect_seq` to `expect_cmd`, `expect_cmd` to
`expect_length`, and `expect_length` to `expect_data`, to `expect_crc` if the length is 0, or to `waiting_signal` with
`too_large` if it exceeds the capacity. The byte `AA` (group `2A`) is a signal byte, counted as well. -/
def Obligations.VarintRowsAccumulateTheField : Prop :=
  ∀ (s : State) (link : Ref) (d : Decoder) (g : BitVec 7), s.decoder link = some d →
    (d.reachesHandler (1#1 ++ g) = true →
      let n : BitVec 2 := if g = 0x2A#7 then d.sigcnt + 1#2 else 0#2
      let crc := crcUpdate d.crc (1#1 ++ g)
      (d.state = .expectSeq → exec (.byteVarintCont link g) s = .next { s with
        decoders := Slots.put link.toNat { d with sigcnt := n, crc := crc, seq := (d.seq <<< 7) ||| g.setWidth 32 }
          s.decoders, result := .none }) ∧
      (d.state = .expectCmd → exec (.byteVarintCont link g) s = .next { s with
        decoders := Slots.put link.toNat { d with sigcnt := n, crc := crc, cmd := (d.cmd <<< 7) ||| g.setWidth 32 }
          s.decoders, result := .none }) ∧
      (d.state = .expectLength → exec (.byteVarintCont link g) s = .next { s with
        decoders := Slots.put link.toNat { d with sigcnt := n, crc := crc, len := (d.len <<< 7) ||| g.setWidth 32 }
          s.decoders, result := .none })) ∧
    (d.reachesHandler (0#1 ++ g) = true →
      let crc := crcUpdate d.crc (0#1 ++ g)
      let len := (d.len <<< 7) ||| g.setWidth 32
      (d.state = .expectSeq → exec (.byteVarintLast link g) s = .next { s with
        decoders := Slots.put link.toNat
          { d with state := .expectCmd, sigcnt := 0#2, crc := crc, seq := (d.seq <<< 7) ||| g.setWidth 32 } s.decoders,
        result := .none }) ∧
      (d.state = .expectCmd → exec (.byteVarintLast link g) s = .next { s with
        decoders := Slots.put link.toNat
          { d with state := .expectLength, sigcnt := 0#2, crc := crc, cmd := (d.cmd <<< 7) ||| g.setWidth 32 }
          s.decoders, result := .none }) ∧
      (d.state = .expectLength → exec (.byteVarintLast link g) s = .next { s with
        decoders := Slots.put link.toNat
          { d with sigcnt := 0#2, crc := crc, len := len,
                   state := if d.cap.toNat < len.toNat then .waitingSignal
                            else if len = 0#32 then .expectCrc else .expectData } s.decoders,
        events := s.events ++ d.deliveries link (if d.cap.toNat < len.toNat then some (.err .tooLarge) else none),
        result := .none }))

/-! ### The stage-3 handlers

Each is stated for a byte that stages 1 and 2 do not consume, through `DEC_BYTE` and through the row of format `DECSTATE`
(an instruction by assumption 5). Stage 1 has counted the byte (`runAfter`). -/

/-- R176, through `DEC_BYTE`: in `waiting_signal` every byte is ignored, but that stage 1 counts it.
The row `ST_WAITING_SIGNAL` does the same; that it is an instruction, and the whole of `DEC_BYTE` with the count of stage 1, is the
model's choice (assumption 5). -/
def Obligations.WaitingSignalIgnoresEveryByte : Prop :=
  ∀ (s : State) (link : Ref) (b : Byte) (d : Decoder) (i : Instr), s.decoder link = some d → d.state = .waitingSignal →
    d.reachesHandler b = true → i = .decByte link b ∨ i = .stWaitingSignal link b →
    exec i s =
      .next { s with decoders := Slots.put link.toNat { d with sigcnt := d.runAfter b } s.decoders, result := .none }

/-- R177, through `DEC_BYTE`: `00` starts the CRC, clears the accumulators and moves to `expect_seq`; any other byte is
`invalid_separator_byte` and writes, beside the counter, the state only.
The row `ST_EXPECT_SEPARATOR` does the same; that it is an instruction, and the whole of `DEC_BYTE` with the count of stage 1, is the
model's choice (assumption 5). -/
def Obligations.ExpectSeparatorChecksTheByte : Prop :=
  ∀ (s : State) (link : Ref) (b : Byte) (d : Decoder) (i : Instr), s.decoder link = some d → d.state = .expectSeparator →
    d.reachesHandler b = true → i = .decByte link b ∨ i = .stExpectSeparator link b →
    exec i s =
      if b = 0x00#8 then .next { s with
        decoders := Slots.put link.toNat
          { d with sigcnt := d.runAfter b, state := .expectSeq, seq := 0#32, cmd := 0#32, len := 0#32, count := 0#32, crcRx := 0#32,
                   crcN := 0#2, crc := crcUpdate 0xFFFFFFFF#32 0x00#8 } s.decoders, result := .none }
      else .next { s with
        decoders := Slots.put link.toNat { d with sigcnt := d.runAfter b, state := .waitingSignal } s.decoders,
        events := s.events ++ d.deliveries link (some (.err .invalidSeparatorByte)), result := .none }

/-- R178, through `DEC_BYTE`: the byte is folded into the CRC and its group into `seq`; with bit 7 clear the state moves to
`expect_cmd`.
The row `ST_EXPECT_SEQ` does the same; that it is an instruction, and the whole of `DEC_BYTE` with the count of stage 1, is the
model's choice (assumption 5). -/
def Obligations.ExpectSeqAccumulates : Prop :=
  ∀ (s : State) (link : Ref) (b : Byte) (d : Decoder) (i : Instr), s.decoder link = some d → d.state = .expectSeq →
    d.reachesHandler b = true → i = .decByte link b ∨ i = .stExpectSeq link b →
    exec i s = .next { s with
      decoders := Slots.put link.toNat
        { d with sigcnt := d.runAfter b, crc := crcUpdate d.crc b, seq := (d.seq <<< 7) ||| (b.extractLsb' 0 7).setWidth 32,
                 state := if b.msb then .expectSeq else .expectCmd } s.decoders, result := .none }

/-- R179, through `DEC_BYTE`: the byte is folded into the CRC and its group into `cmd`; with bit 7 clear the state moves to
`expect_length`.
The row `ST_EXPECT_CMD` does the same; that it is an instruction, and the whole of `DEC_BYTE` with the count of stage 1, is the
model's choice (assumption 5). -/
def Obligations.ExpectCmdAccumulates : Prop :=
  ∀ (s : State) (link : Ref) (b : Byte) (d : Decoder) (i : Instr), s.decoder link = some d → d.state = .expectCmd →
    d.reachesHandler b = true → i = .decByte link b ∨ i = .stExpectCmd link b →
    exec i s = .next { s with
      decoders := Slots.put link.toNat
        { d with sigcnt := d.runAfter b, crc := crcUpdate d.crc b, cmd := (d.cmd <<< 7) ||| (b.extractLsb' 0 7).setWidth 32,
                 state := if b.msb then .expectCmd else .expectLength } s.decoders, result := .none }

/-- R180, through `DEC_BYTE`: the byte is folded into the CRC and its group into `len`; on the last byte a length above the
capacity is `too_large`, a length of 0 goes to `expect_crc`, any other to `expect_data`.
The row `ST_EXPECT_LENGTH` does the same; that it is an instruction, and the whole of `DEC_BYTE` with the count of stage 1, is the
model's choice (assumption 5). -/
def Obligations.ExpectLengthChecksTheCapacity : Prop :=
  ∀ (s : State) (link : Ref) (b : Byte) (d : Decoder) (i : Instr), s.decoder link = some d → d.state = .expectLength →
    d.reachesHandler b = true → i = .decByte link b ∨ i = .stExpectLength link b →
    let len := (d.len <<< 7) ||| (b.extractLsb' 0 7).setWidth 32
    let tooLarge := b.msb = false ∧ d.cap.toNat < len.toNat
    exec i s = .next { s with
      decoders := Slots.put link.toNat
        { d with sigcnt := d.runAfter b, crc := crcUpdate d.crc b, len := len,
                 state := if b.msb then .expectLength else if d.cap.toNat < len.toNat then .waitingSignal
                          else if len = 0#32 then .expectCrc else .expectData } s.decoders,
      events := s.events ++ d.deliveries link (if tooLarge then some (.err .tooLarge) else none),
      result := .none }

/-- R181, R53, through `DEC_BYTE`: the byte is folded into the CRC and stored at offset `count`; `count` is incremented and,
once it equals `len`, the state moves to `expect_crc`. Outside the buffer, where no reachable state stores, the step
faults; the fault is the model's choice (assumption 9).
The row `ST_EXPECT_DATA` does the same; that it is an instruction, and the whole of `DEC_BYTE` with the count of stage 1, is the
model's choice (assumption 5). -/
def Obligations.ExpectDataStoresAtTheCount : Prop :=
  ∀ (s : State) (link : Ref) (b : Byte) (d : Decoder) (i : Instr), s.decoder link = some d → d.state = .expectData →
    d.reachesHandler b = true → i = .decByte link b ∨ i = .stExpectData link b →
    (d.count.toNat < d.cap.toNat → exec i s = .next { s with
      decoders := Slots.put link.toNat
        { d with sigcnt := d.runAfter b, crc := crcUpdate d.crc b, count := d.count + 1#32,
                 state := if d.count + 1#32 = d.len then .expectCrc else .expectData } s.decoders,
      memory := s.memory.write d.buf d.count.toNat b,
      result := .none }) ∧
    (d.cap.toNat ≤ d.count.toNat → exec i s = .fault .outsideBuffer)

/-- R182, through `DEC_BYTE`: the byte is shifted into `crc_rx`; on the fourth byte the finished CRC is compared, `crc_n`
returns to 0, and the state moves to `expect_terminator` or, with `checksum_mismatch`, to `waiting_signal`. `crc` is not
changed.
The row `ST_EXPECT_CRC` does the same; that it is an instruction, and the whole of `DEC_BYTE` with the count of stage 1, is the
model's choice (assumption 5). -/
def Obligations.ExpectCrcComparesOnTheFourthByte : Prop :=
  ∀ (s : State) (link : Ref) (b : Byte) (d : Decoder) (i : Instr), s.decoder link = some d → d.state = .expectCrc →
    d.reachesHandler b = true → i = .decByte link b ∨ i = .stExpectCrc link b →
    let rx := (d.crcRx <<< 8) ||| b.setWidth 32
    let differ := d.crcN = 3#2 ∧ d.crc ^^^ 0xFFFFFFFF#32 ≠ rx
    exec i s = .next { s with
      decoders := Slots.put link.toNat
        { d with sigcnt := d.runAfter b, crcRx := rx, crcN := d.crcN + 1#2,
                 state := if d.crcN ≠ 3#2 then .expectCrc
                          else if d.crc ^^^ 0xFFFFFFFF#32 = rx then .expectTerminator else .waitingSignal } s.decoders,
      events := s.events ++ d.deliveries link (if differ then some (.err .checksumMismatch) else none),
      result := .none }

/-- R183, through `DEC_BYTE`: `55` emits `PKT`, any other byte `invalid_terminator`; either way the state returns to
`waiting_signal` and the accumulators keep their values.
The row `ST_EXPECT_TERMINATOR` does the same; that it is an instruction, and the whole of `DEC_BYTE` with the count of stage 1, is the
model's choice (assumption 5). -/
def Obligations.ExpectTerminatorDeliversOrDrops : Prop :=
  ∀ (s : State) (link : Ref) (b : Byte) (d : Decoder) (i : Instr), s.decoder link = some d → d.state = .expectTerminator →
    d.reachesHandler b = true → i = .decByte link b ∨ i = .stExpectTerminator link b →
    exec i s = .next { s with
      decoders := Slots.put link.toNat { d with sigcnt := d.runAfter b, state := .waitingSignal } s.decoders,
      events := s.events ++ d.deliveries link (some (if b = 0x55#8 then
        .pkt d.seq d.cmd (if d.len = 0#32 then none else some { buf := d.buf, len := d.len }) d.len
        else .err .invalidTerminator)),
      result := .none }

/-- The stops of the decoder operations and of the writer: a row whose handler `dec.state` does not select (R84, R190; the
refusal is the model's, assumption 5), a link without a context (U3, R265), a writer that was never created (R23, R45). -/
def Obligations.MissingContextOrHandlerIsRefused : Prop :=
  (∀ (s : State) (link : Ref) (b : Byte) (d : Decoder) (h : DecState), s.decoder link = some d → d.state ≠ h →
    exec (h.row link b) s = .refused (.handlerNotSelected h)) ∧
  (∀ (s : State) (link : Ref) (i : Instr), s.decoder link = none → linkOf i = some link →
    (∀ buffer capacity onPacket onError, i ≠ .decNew link buffer capacity onPacket onError) →
    exec i s = .refused (.contextNotConstructed link)) ∧
  (∀ (s : State) (w : Ref) (b : Byte), s.writer w = none → exec (.wrByte w b) s = .refused (.writerNotCreated w))

/-! ### The decoder as a whole -/

/-- R190: after every byte that a decoder takes, its state and the event of the step are the ones the transition table
gives, row by row. -/
def Obligations.DecoderFollowsTheTransitionTable : Prop :=
  ∀ (s t : State) (link : Ref) (d : Decoder) (b : Byte), s.decoder link = some d →
    exec (.decByte link b) s = .next t →
    ∃ d' : Decoder, t.decoder link = some d' ∧ d'.state = (d.transition b).1 ∧
      t.events = s.events ++ d.deliveries link (d.transition b).2

/-- R26: after any bytes received since reset the run counter is the length of the signal run they end in, or 3. -/
def Obligations.RunCounterCountsTheTrailingSignals : Prop :=
  ∀ (s s0 t : State) (link buffer onPacket : Ref) (capacity : Word) (onError : Option Ref) (bs : List Byte),
    exec (.decNew link buffer capacity onPacket onError) s = .next s0 → s0.feed link bs = .next t →
    ∃ d : Decoder, t.decoder link = some d ∧ d.sigcnt.toNat = min (trailingSignals bs) 3

/-- R40, R221, R228: from every state that meets the invariant, a decoder takes every byte in every decoder state: the
step completes, whatever error it reports. So do the `DECSTATE` row of its state and the six `BYTE` rows; that these rows
run, the `BYTE` rows also where R84's condition on the row fails, is the model's choice (assumption 5). -/
def Obligations.DecoderAcceptsEveryByte : Prop :=
  ∀ (s : State) (link : Ref) (d : Decoder), s.Inv → s.decoder link = some d →
    (∀ b : Byte, (∃ t, exec (.decByte link b) s = .next t) ∧ ∃ t, exec (d.state.row link b) s = .next t) ∧
    (∃ t, exec (.byteSignal link) s = .next t) ∧ (∃ t, exec (.byteStuff link) s = .next t) ∧
    (∃ t, exec (.byteSeparator link) s = .next t) ∧ (∃ t, exec (.byteTerminator link) s = .next t) ∧
    (∀ g : BitVec 7, (∃ t, exec (.byteVarintCont link g) s = .next t) ∧ ∃ t, exec (.byteVarintLast link g) s = .next t)

/-- R191: from every state that meets the invariant, three signal bytes leave a decoder in `expect_separator` with the
run counter at 3 and all accumulators clear. -/
def Obligations.ThreeSignalsResynchronise : Prop :=
  ∀ (s : State) (link : Ref) (d : Decoder), s.Inv → s.decoder link = some d → ∃ (t : State) (d' : Decoder),
    s.feed link [0xAA#8, 0xAA#8, 0xAA#8] = .next t ∧ t.decoder link = some d' ∧ d'.state = .expectSeparator ∧
    d'.sigcnt = 3#2 ∧ d'.seq = 0#32 ∧ d'.cmd = 0#32 ∧ d'.len = 0#32 ∧ d'.count = 0#32 ∧ d'.crcRx = 0#32 ∧ d'.crcN = 0#2

/-- R173 corner case c, R277 a: from idle, a run of `m >= 3` signal bytes emits `m - 3` errors `new_packet` and ends in
`expect_separator`. -/
def Obligations.IdleSignalRunReportsEachExtraByte : Prop :=
  ∀ (s : State) (link : Ref) (d : Decoder) (m : Nat), s.decoder link = some d → d.state = .waitingSignal →
    d.sigcnt = 0#2 → 3 ≤ m → ∃ (t : State) (d' : Decoder),
    s.feed link (List.replicate m 0xAA#8) = .next t ∧ t.decoder link = some d' ∧ d'.state = .expectSeparator ∧
    d'.sigcnt = 3#2 ∧
    t.events = s.events ++ (List.replicate (m - 3) (d.deliveries link (some (.err .newPacket)))).flatten

/-- R192: a packet event is added only by a byte `55` in state `expect_terminator` that stages 1 and 2 do not consume,
carries the parsed fields to the packet consumer, and leaves that state. The table rows that can be that byte are
instructions by the model's choice (assumption 5). -/
def Obligations.PacketComesOnlyFromATerminator : Prop :=
  ∀ (s t : State) (i : Instr) (link k : Ref) (seq cmd len : Word) (payload : Option BufView), exec i s = .next t →
    t.events = s.events ++ [{ link := link, consumer := k, event := .pkt seq cmd payload len }] →
    ∃ d d' : Decoder, s.decoder link = some d ∧ d.state = .expectTerminator ∧ d.sigcnt ≠ 2#2 ∧ d.seq = seq ∧ d.cmd = cmd ∧ d.len = len ∧
      d.onPacket = k ∧ payload = (if len = 0#32 then none else some { buf := d.buf, len := len }) ∧
      t.decoder link = some d' ∧ d'.state = .waitingSignal ∧
      (i = .decByte link 0x55#8 ∨ i = .stExpectTerminator link 0x55#8 ∨ i = .byteTerminator link ∨
        i = .byteVarintLast link 0x55#7)

/-- R41, R54: from every state that meets the invariant, the view a packet event carries covers `len` bytes, at least
one, and every byte of it has been stored. -/
def Obligations.DeliveredViewWasStored : Prop :=
  ∀ (s t : State) (i : Instr) (link k : Ref) (seq cmd len : Word) (v : BufView), s.Inv → exec i s = .next t →
    t.events = s.events ++ [{ link := link, consumer := k, event := .pkt seq cmd (some v) len }] →
    v.len = len ∧ 0 < len.toNat ∧ (t.memory.viewed v).length = len.toNat ∧
      ∀ x ∈ t.memory.viewed v, ∃ b : Byte, x = some b

/-- R42, R222: without an error consumer a byte has every effect it has with one, but that its error event is
dropped. -/
def Obligations.AbsentErrorConsumerDropsOnlyTheEvent : Prop :=
  ∀ (s t : State) (link k : Ref) (d : Decoder) (b : Byte), s.decoder link = some d → d.onError = some k →
    exec (.decByte link b) s = .next t →
    ∃ d' : Decoder, t.decoder link = some d' ∧ d'.onError = some k ∧
      ((exec (.decByte link b) (s.setDecoder link { d with onError := none }) =
          .next (t.setDecoder link { d' with onError := none }) ∧
        ∀ c, (d.transition b).2 ≠ some (.err c)) ∨
       (exec (.decByte link b) (s.setDecoder link { d with onError := none }) =
          .next { t.setDecoder link { d' with onError := none } with events := s.events } ∧
        ∃ c, (d.transition b).2 = some (.err c) ∧
          t.events = s.events ++ [{ link := link, consumer := k, event := .err c }]))

/-! ### Memory, contexts, outputs -/

/-- A stored byte is read back and every other byte of every buffer is as it was (R50, R53; that each buffer has a window
of its own is assumption 6); a decoder context (R25, R36) or a writer context (R23, R36) written under a name is read
back and every other is as it was. -/
def Obligations.KeptValuesAreReadBack : Prop :=
  (∀ (m : Memory) (buf buf' : Ref) (off off' : Nat) (v : Byte), off < 2 ^ 32 → off' < 2 ^ 32 →
    (m.write buf off v).read buf' off' = if buf' = buf ∧ off' = off then some v else m.read buf' off') ∧
  (∀ (s : State) (link link' : Ref) (d : Decoder),
    (s.setDecoder link d).decoder link' = if link' = link then some d else s.decoder link') ∧
  (∀ (s : State) (w w' : Ref) (x : Machine.Writer),
    (s.setWriter w x).writer w' = if w' = w then some x else s.writer w')

/-- R52, R53, R57, R63, R65: an instruction stores the byte it presents, at `dec.buf` and `dec.count` of the context it
names, when stage 3 sees the byte in `expect_data`; otherwise it stores nothing; every other byte of every buffer reads as
before. No operation reads a payload buffer: with any other buffer contents an instruction stops as before, or completes
with the same effect on everything but the buffers and the same store. -/
def Obligations.BufferContentsNeverMatter : Prop :=
  ∀ (i : Instr) (s : State),
    (∀ t, exec i s = .next t →
      (storeOf i s = none → t.memory = s.memory ∧ ∀ m : Memory, exec i { s with memory := m } = .next { t with memory := m }) ∧
      (∀ (buf : Ref) (off : Nat) (v : Byte), storeOf i s = some (buf, off, v) →
        t.memory = s.memory.write buf off v ∧
        (∀ (buf' : Ref) (off' : Nat), off' < 2 ^ 32 → ¬ (buf' = buf ∧ off' = off) →
          t.memory.read buf' off' = s.memory.read buf' off') ∧
        ∀ m : Memory, exec i { s with memory := m } = .next { t with memory := m.write buf off v })) ∧
    (∀ (m : Memory) (f : Fault), exec i s = .fault f → exec i { s with memory := m } = .fault f) ∧
    (∀ (m : Memory) (r : Refusal), exec i s = .refused r → exec i { s with memory := m } = .refused r)

/-- R33, R43, R225: no operation reads back what the block has sent, emitted or returned; an instruction adds at most one
event. -/
def Obligations.OutputsAreNeverReadBack : Prop :=
  ∀ (i : Instr) (s t : State), exec i s = .next t →
    ∃ (es : List Emission) (bs : List (Ref × Byte)), es.length ≤ 1 ∧ t.events = s.events ++ es ∧ t.sent = s.sent ++ bs ∧
      ∀ (es' : List Emission) (bs' : List (Ref × Byte)) (r : Result),
        exec i { s with events := es', sent := bs', result := r } =
          .next { t with events := es' ++ es, sent := bs' ++ bs }

/-- R36, R24, R249: an instruction changes only the context it names. Every other decoder context, its buffer and its
events, and every other writer context are as they were. A decoder context is written by `DEC_NEW` and by what `DEC_BYTE` does,
and by nothing else (R246). -/
def Obligations.ContextsDoNotAlias : Prop :=
  ∀ (i : Instr) (s t : State), s.Inv → exec i s = .next t →
    (∀ (link : Ref) (d : Decoder), linkOf i ≠ some link → s.decoder link = some d →
      t.decoder link = some d ∧ (∀ off < 2 ^ 32, t.memory.read d.buf off = s.memory.read d.buf off) ∧
      t.events.filter (fun e => e.link = link) = s.events.filter (fun e => e.link = link)) ∧
    (∀ w : Ref, writerOf i ≠ some w → t.writer w = s.writer w) ∧
    (t.decoders = s.decoders ∨
      (∃ link buffer capacity onPacket onError, i = .decNew link buffer capacity onPacket onError) ∨
      ∃ (link : Ref) (b : Byte), receivedBy i = some (link, b) ∧ exec (.decByte link b) s = .next t)

/-- R249: bytes received on two different links may be taken in either order: the contexts, the buffers and each link's
events come out the same. -/
def Obligations.BytesOnDifferentLinksCommute : Prop :=
  ∀ (s t u : State) (link link' : Ref) (b b' : Byte), s.Inv → link ≠ link' →
    exec (.decByte link b) s = .next t → exec (.decByte link' b') t = .next u →
    ∃ t' u' : State, exec (.decByte link' b') s = .next t' ∧ exec (.decByte link b) t' = .next u' ∧
      (∀ l : Ref, u'.decoder l = u.decoder l) ∧
      (∀ (buf : Ref) (off : Nat), off < 2 ^ 32 → u'.memory.read buf off = u.memory.read buf off) ∧
      (∀ l : Ref, u'.events.filter (fun e => e.link = l) = u.events.filter (fun e => e.link = l))

/-! ### Invariants -/

/-- R32 and what it takes to be kept: the state after reset meets the invariant. -/
def Obligations.ResetSatisfiesTheInvariant : Prop :=
  State.reset.Inv

/-- R32: every step that answers a next state keeps the invariant: the memory and the tables stay canonical, the writer
counters stay 0 or 1, and every decoder context keeps clauses b, c and d. -/
def Obligations.StepKeepsTheInvariant : Prop :=
  ∀ s t : State, s.Inv → step s = .next t → t.Inv

/-- R53: from every state that meets the invariant no step stores outside its buffer, so none faults. -/
def Obligations.NoStepStoresOutsideItsBuffer : Prop :=
  ∀ (s : State) (f : Fault), s.Inv → step s ≠ .fault f

/-! ### Whole frames -/

/-- R275: a clean frame whose payload fits the buffer is delivered exactly once, on its last byte, whatever the decoder
was doing before: no event follows the third byte but the packet, the first three bytes raise errors only, and none if
the decoder was idle with run counter 0; the view shows the payload. -/
def Obligations.CleanFrameIsDelivered : Prop :=
  ∀ (s : State) (link : Ref) (d : Decoder) (seq cmd : Word) (payload : List Byte), s.Inv → s.decoder link = some d →
    payload.length ≤ d.cap.toNat → frameClean seq cmd payload = true →
    ∃ (s3 u t : State) (errs : List Emission),
      s.feed link [0xAA#8, 0xAA#8, 0xAA#8] = .next s3 ∧ s3.events = s.events ++ errs ∧
      (∀ e ∈ errs, ∃ c, e.event = .err c) ∧ (d.state = .waitingSignal → d.sigcnt = 0#2 → errs = []) ∧
      s.feed link (frame seq cmd payload).dropLast = .next u ∧ u.events = s.events ++ errs ∧
      s.feed link (frame seq cmd payload) = .next t ∧
      t.events = s.events ++ errs ++ [(⟨link, d.onPacket,
        .pkt seq cmd (if payload = [] then none else some { buf := d.buf, len := BitVec.ofNat 32 payload.length })
          (BitVec.ofNat 32 payload.length)⟩ : Emission)] ∧
      t.memory.viewed { buf := d.buf, len := BitVec.ofNat 32 payload.length } = payload.map some

/-- R275, R271, R272: a frame that is not clean delivers nothing, unless only clause (1) fails and the accumulator before
the last stuffing byte is 0. -/
def Obligations.UncleanFrameIsNotDelivered : Prop :=
  ∀ (s t : State) (link : Ref) (d : Decoder) (seq cmd : Word) (payload : List Byte), s.Inv → s.decoder link = some d →
    payload.length ≤ d.cap.toNat → frameClean seq cmd payload = false →
    ¬ (noSignalPair (crcField seq cmd payload) = true ∧
        endsStuffed (frameBody seq cmd payload) = true ∧
        crcFold 0xFFFFFFFF#32 (coveredRegion seq cmd payload).dropLast = 0#32) →
    s.feed link (frame seq cmd payload) = .next t →
    ∃ es : List Emission, t.events = s.events ++ es ∧ ∀ e ∈ es, ∃ c, e.event = .err c

/-- R271: a frame whose covered region ends in an inserted stuffing byte fails its checksum on the fourth CRC byte: no event
comes after the third byte and before that one, and none on the terminator. Excepted are an accumulator of 0 before the
stuffing byte (R271) and a CRC field that holds two adjacent signal bytes (R272). -/
def Obligations.TrailingPairFailsTheChecksum : Prop :=
  ∀ (s : State) (link : Ref) (d : Decoder) (seq cmd : Word) (payload : List Byte), s.Inv → s.decoder link = some d →
    payload.length ≤ d.cap.toNat → endsStuffed (frameBody seq cmd payload) = true →
    noSignalPair (crcField seq cmd payload) = true →
    crcFold 0xFFFFFFFF#32 (coveredRegion seq cmd payload).dropLast ≠ 0#32 →
    ∃ (s3 u v t : State) (errs : List Emission),
      s.feed link [0xAA#8, 0xAA#8, 0xAA#8] = .next s3 ∧ s3.events = s.events ++ errs ∧
      s.feed link (frame seq cmd payload).dropLast.dropLast = .next u ∧ u.events = s.events ++ errs ∧
      s.feed link (frame seq cmd payload).dropLast = .next v ∧
      v.events = s.events ++ errs ++ d.deliveries link (some (.err .checksumMismatch)) ∧
      s.feed link (frame seq cmd payload) = .next t ∧ t.events = v.events
end

