-- ==== Sys2Proof/Laws/Slots.lean ====
section
/-!
SUPPORT. The laws of tables with strictly rising keys, and of the payload buffers kept in one.
-/

namespace Sys2Proof.Machine

section Tables

variable {α : Type}

@[simp] theorem Slots.find_nil (key : Nat) : Slots.find ([] : Slots α) key = none := rfl

theorem Slots.find_cons (k : Nat) (v : α) (rest : Slots α) (key : Nat) :
    Slots.find ((k, v) :: rest) key = if k = key then some v else Slots.find rest key := rfl

/-- What was put under a key is found under it. -/
@[simp] theorem Slots.find_put_same (key : Nat) (v : α) (t : Slots α) :
    Slots.find (Slots.put key v t) key = some v := by
  induction t with
  | nil => simp [Slots.put, Slots.find]
  | cons p rest ih =>
    obtain ⟨k, u⟩ := p
    simp only [Slots.put]
    split
    · simp [Slots.find]
    · split
      · simp [Slots.find]
      · rename_i h1 h2
        simp [Slots.find, Ne.symm h2, ih]

/-- Putting under one key leaves every other key as it was. -/
theorem Slots.find_put_other {key other : Nat} (h : other ≠ key) (v : α) (t : Slots α) :
    Slots.find (Slots.put key v t) other = Slots.find t other := by
  induction t with
  | nil => simp [Slots.put, Slots.find, Ne.symm h]
  | cons p rest ih =>
    obtain ⟨k, u⟩ := p
    simp only [Slots.put]
    split
    · simp [Slots.find, Ne.symm h]
    · split
      · rename_i h1 h2
        subst h2
        simp [Slots.find, Ne.symm h]
      · simp [Slots.find, ih]

/-- Putting twice under one key is putting the second value. -/
@[simp] theorem Slots.put_put (key : Nat) (v w : α) (t : Slots α) :
    Slots.put key w (Slots.put key v t) = Slots.put key w t := by
  induction t with
  | nil => simp [Slots.put]
  | cons p rest ih =>
    obtain ⟨k, u⟩ := p
    by_cases h1 : key < k
    · simp [Slots.put, h1]
    · by_cases h2 : key = k
      · simp [Slots.put, h2]
      · simp [Slots.put, h1, h2, ih]

/-- An entry after a put is the one that was put, or one that stood there. -/
theorem Slots.mem_put {key : Nat} {v : α} {t : Slots α} {p : Nat × α} (h : p ∈ Slots.put key v t) :
    p = (key, v) ∨ p ∈ t := by
  induction t with
  | nil => simpa [Slots.put] using h
  | cons q rest ih =>
    obtain ⟨k, u⟩ := q
    simp only [Slots.put] at h
    split at h
    · simpa using h
    · split at h
      · simp only [List.mem_cons] at h ⊢
        tauto
      · simp only [List.mem_cons] at h ⊢
        rcases h with h | h
        · exact .inr (.inl h)
        · rcases ih h with h | h
          · exact .inl h
          · exact .inr (.inr h)

/-- The head key of a canonical table is below every later key, and the tail is canonical. -/
theorem Slots.wf_cons {k : Nat} {v : α} {t : Slots α} :
    Slots.wf ((k, v) :: t) = true ↔ (∀ p ∈ t, k < p.1) ∧ Slots.wf t = true := by
  induction t generalizing k v with
  | nil => simp [Slots.wf]
  | cons q rest ih =>
    obtain ⟨k', v'⟩ := q
    simp only [Slots.wf, Bool.and_eq_true, decide_eq_true_eq, List.forall_mem_cons]
    constructor
    · rintro ⟨h1, h2⟩
      exact ⟨⟨h1, fun p hp => lt_trans h1 ((ih.1 h2).1 p hp)⟩, h2⟩
    · rintro ⟨⟨h1, _⟩, h2⟩
      exact ⟨h1, h2⟩

/-- Putting keeps the canonical form. -/
theorem Slots.wf_put {key : Nat} {v : α} {t : Slots α} (h : Slots.wf t = true) :
    Slots.wf (Slots.put key v t) = true := by
  induction t with
  | nil => rfl
  | cons q rest ih =>
    obtain ⟨k, u⟩ := q
    have hk := Slots.wf_cons.1 h
    simp only [Slots.put]
    split
    · rename_i h1
      refine Slots.wf_cons.2 ⟨?_, h⟩
      intro p hp
      rcases List.mem_cons.1 hp with rfl | hp
      · exact h1
      · exact lt_trans h1 (hk.1 p hp)
    · split
      · rename_i h1 h2
        subst h2
        exact Slots.wf_cons.2 hk
      · rename_i h1 h2
        refine Slots.wf_cons.2 ⟨?_, ih hk.2⟩
        intro p hp
        rcases Slots.mem_put hp with rfl | hp
        · show k < key
          omega
        · exact hk.1 p hp

/-- What is found is an entry. -/
theorem Slots.mem_of_find {t : Slots α} {key : Nat} {v : α} (h : Slots.find t key = some v) : (key, v) ∈ t := by
  induction t with
  | nil => simp at h
  | cons q rest ih =>
    obtain ⟨k, u⟩ := q
    rw [Slots.find_cons] at h
    split at h
    · rename_i hk
      simp_all
    · exact List.mem_cons_of_mem _ (ih h)

/-- In a canonical table every entry is found. -/
theorem Slots.find_of_mem {t : Slots α} {key : Nat} {v : α} (hw : Slots.wf t = true) (h : (key, v) ∈ t) :
    Slots.find t key = some v := by
  induction t with
  | nil => simp at h
  | cons q rest ih =>
    obtain ⟨k, u⟩ := q
    have hk := Slots.wf_cons.1 hw
    rw [Slots.find_cons]
    rcases List.mem_cons.1 h with h | h
    · simp_all
    · have := hk.1 _ h
      rw [if_neg (by simp at this; omega)]
      exact ih hk.2 h

/-- In a canonical table an entry after a put is the one that was put, or stood there under another key. -/
theorem Slots.mem_put_wf {key : Nat} {v : α} {t : Slots α} {p : Nat × α} (hw : Slots.wf t = true)
    (h : p ∈ Slots.put key v t) : p = (key, v) ∨ (p.1 ≠ key ∧ p ∈ t) := by
  obtain ⟨k, u⟩ := p
  have hf := Slots.find_of_mem (Slots.wf_put hw) h
  by_cases hk : k = key
  · subst hk
    rw [Slots.find_put_same] at hf
    simp_all
  · rw [Slots.find_put_other hk] at hf
    exact .inr ⟨hk, Slots.mem_of_find hf⟩

end Tables

/-! ### The payload buffers -/

/-- Two offsets have one address only in one buffer and at one offset. -/
theorem bufAddr_inj {b b' : Ref} {o o' : Nat} (ho : o < 2 ^ 32) (ho' : o' < 2 ^ 32) :
    bufAddr b o = bufAddr b' o' ↔ b = b' ∧ o = o' := by
  constructor
  · intro h
    simp only [bufAddr] at h
    have h1 : b.toNat = b'.toNat := by omega
    exact ⟨BitVec.eq_of_toNat_eq h1, by omega⟩
  · rintro ⟨rfl, rfl⟩
    rfl

/-- A byte that was stored is read. -/
@[simp] theorem Memory.read_write_same (m : Memory) (b : Ref) (o : Nat) (v : Byte) :
    (m.write b o v).read b o = some v := Slots.find_put_same _ _ _

/-- A store leaves every other byte as it was. -/
theorem Memory.read_write_other (m : Memory) {b b' : Ref} {o o' : Nat} (v : Byte) (ho : o < 2 ^ 32) (ho' : o' < 2 ^ 32)
    (h : ¬ (b' = b ∧ o' = o)) : (m.write b o v).read b' o' = m.read b' o' :=
  Slots.find_put_other (fun e => h ((bufAddr_inj ho' ho).1 e)) _ _

/-- A store keeps the canonical form. -/
theorem Memory.wf_write (m : Memory) (b : Ref) (o : Nat) (v : Byte) (h : m.wf = true) : (m.write b o v).wf = true :=
  Slots.wf_put h

/-- A stored byte stays readable after any store. -/
theorem Memory.isSome_read_write (m : Memory) (b b' : Ref) (o o' : Nat) (v : Byte)
    (h : (m.read b' o').isSome = true) : ((m.write b o v).read b' o').isSome = true := by
  unfold Memory.read Memory.write
  by_cases hk : bufAddr b' o' = bufAddr b o
  · rw [hk, Slots.find_put_same]
    rfl
  · rw [Slots.find_put_other hk]
    exact h

/-- An address after a store is the one stored to, or stood there. -/
theorem Memory.mem_write {m : Memory} {b : Ref} {o : Nat} {v : Byte} {p : Nat × BitVec 8}
    (h : p ∈ m.write b o v) : p = (bufAddr b o, v) ∨ p ∈ m := Slots.mem_put h

end Sys2Proof.Machine
end

