-- ==== Sys2Proof/Laws/State.lean ====
section
/-!
SUPPORT. What each update of the state leaves in each field, and what each shared operation can do, said once.
-/

namespace Sys2Proof.Machine

/-! ### One lemma per field per update -/

@[simp] theorem State.setDecoder_decoders (s : State) (link : Ref) (d : Decoder) :
    (s.setDecoder link d).decoders = Slots.put link.toNat d s.decoders := rfl

@[simp] theorem State.setDecoder_writers (s : State) (link : Ref) (d : Decoder) :
    (s.setDecoder link d).writers = s.writers := rfl

@[simp] theorem State.setDecoder_memory (s : State) (link : Ref) (d : Decoder) :
    (s.setDecoder link d).memory = s.memory := rfl

@[simp] theorem State.setDecoder_events (s : State) (link : Ref) (d : Decoder) :
    (s.setDecoder link d).events = s.events := rfl

@[simp] theorem State.setDecoder_sent (s : State) (link : Ref) (d : Decoder) :
    (s.setDecoder link d).sent = s.sent := rfl

@[simp] theorem State.setDecoder_result (s : State) (link : Ref) (d : Decoder) :
    (s.setDecoder link d).result = s.result := rfl

@[simp] theorem State.setDecoder_requests (s : State) (link : Ref) (d : Decoder) :
    (s.setDecoder link d).requests = s.requests := rfl

@[simp] theorem State.setWriter_decoders (s : State) (w : Ref) (x : Writer) :
    (s.setWriter w x).decoders = s.decoders := rfl

@[simp] theorem State.setWriter_writers (s : State) (w : Ref) (x : Writer) :
    (s.setWriter w x).writers = Slots.put w.toNat x s.writers := rfl

@[simp] theorem State.setWriter_memory (s : State) (w : Ref) (x : Writer) :
    (s.setWriter w x).memory = s.memory := rfl

@[simp] theorem State.setWriter_events (s : State) (w : Ref) (x : Writer) :
    (s.setWriter w x).events = s.events := rfl

@[simp] theorem State.setWriter_sent (s : State) (w : Ref) (x : Writer) :
    (s.setWriter w x).sent = s.sent := rfl

@[simp] theorem State.setWriter_result (s : State) (w : Ref) (x : Writer) :
    (s.setWriter w x).result = s.result := rfl

@[simp] theorem State.setWriter_requests (s : State) (w : Ref) (x : Writer) :
    (s.setWriter w x).requests = s.requests := rfl

@[simp] theorem State.store_decoders (s : State) (buf : Ref) (off : Nat) (v : Byte) :
    (s.store buf off v).decoders = s.decoders := rfl

@[simp] theorem State.store_writers (s : State) (buf : Ref) (off : Nat) (v : Byte) :
    (s.store buf off v).writers = s.writers := rfl

@[simp] theorem State.store_memory (s : State) (buf : Ref) (off : Nat) (v : Byte) :
    (s.store buf off v).memory = s.memory.write buf off v := rfl

@[simp] theorem State.store_events (s : State) (buf : Ref) (off : Nat) (v : Byte) :
    (s.store buf off v).events = s.events := rfl

@[simp] theorem State.store_sent (s : State) (buf : Ref) (off : Nat) (v : Byte) :
    (s.store buf off v).sent = s.sent := rfl

@[simp] theorem State.store_result (s : State) (buf : Ref) (off : Nat) (v : Byte) :
    (s.store buf off v).result = s.result := rfl

@[simp] theorem State.store_requests (s : State) (buf : Ref) (off : Nat) (v : Byte) :
    (s.store buf off v).requests = s.requests := rfl

@[simp] theorem State.send_decoders (s : State) (sink : Ref) (bs : List Byte) :
    (s.send sink bs).decoders = s.decoders := rfl

@[simp] theorem State.send_writers (s : State) (sink : Ref) (bs : List Byte) :
    (s.send sink bs).writers = s.writers := rfl

@[simp] theorem State.send_memory (s : State) (sink : Ref) (bs : List Byte) :
    (s.send sink bs).memory = s.memory := rfl

@[simp] theorem State.send_events (s : State) (sink : Ref) (bs : List Byte) :
    (s.send sink bs).events = s.events := rfl

@[simp] theorem State.send_sent (s : State) (sink : Ref) (bs : List Byte) :
    (s.send sink bs).sent = s.sent ++ bs.map (fun b => (sink, b)) := rfl

@[simp] theorem State.send_result (s : State) (sink : Ref) (bs : List Byte) :
    (s.send sink bs).result = s.result := rfl

@[simp] theorem State.send_requests (s : State) (sink : Ref) (bs : List Byte) :
    (s.send sink bs).requests = s.requests := rfl

@[simp] theorem State.emit_decoders (s : State) (link consumer : Ref) (e : Event) :
    (s.emit link consumer e).decoders = s.decoders := rfl

@[simp] theorem State.emit_writers (s : State) (link consumer : Ref) (e : Event) :
    (s.emit link consumer e).writers = s.writers := rfl

@[simp] theorem State.emit_memory (s : State) (link consumer : Ref) (e : Event) :
    (s.emit link consumer e).memory = s.memory := rfl

@[simp] theorem State.emit_events (s : State) (link consumer : Ref) (e : Event) :
    (s.emit link consumer e).events = s.events ++ [{ link := link, consumer := consumer, event := e }] := rfl

@[simp] theorem State.emit_sent (s : State) (link consumer : Ref) (e : Event) :
    (s.emit link consumer e).sent = s.sent := rfl

@[simp] theorem State.emit_result (s : State) (link consumer : Ref) (e : Event) :
    (s.emit link consumer e).result = s.result := rfl

@[simp] theorem State.emit_requests (s : State) (link consumer : Ref) (e : Event) :
    (s.emit link consumer e).requests = s.requests := rfl

@[simp] theorem State.setResult_decoders (s : State) (r : Result) :
    (s.setResult r).decoders = s.decoders := rfl

@[simp] theorem State.setResult_writers (s : State) (r : Result) :
    (s.setResult r).writers = s.writers := rfl

@[simp] theorem State.setResult_memory (s : State) (r : Result) :
    (s.setResult r).memory = s.memory := rfl

@[simp] theorem State.setResult_events (s : State) (r : Result) :
    (s.setResult r).events = s.events := rfl

@[simp] theorem State.setResult_sent (s : State) (r : Result) :
    (s.setResult r).sent = s.sent := rfl

@[simp] theorem State.setResult_result (s : State) (r : Result) :
    (s.setResult r).result = r := rfl

@[simp] theorem State.setResult_requests (s : State) (r : Result) :
    (s.setResult r).requests = s.requests := rfl

@[simp] theorem State.setRequests_decoders (s : State) (bs : List Byte) :
    (s.setRequests bs).decoders = s.decoders := rfl

@[simp] theorem State.setRequests_writers (s : State) (bs : List Byte) :
    (s.setRequests bs).writers = s.writers := rfl

@[simp] theorem State.setRequests_memory (s : State) (bs : List Byte) :
    (s.setRequests bs).memory = s.memory := rfl

@[simp] theorem State.setRequests_events (s : State) (bs : List Byte) :
    (s.setRequests bs).events = s.events := rfl

@[simp] theorem State.setRequests_sent (s : State) (bs : List Byte) :
    (s.setRequests bs).sent = s.sent := rfl

@[simp] theorem State.setRequests_result (s : State) (bs : List Byte) :
    (s.setRequests bs).result = s.result := rfl

@[simp] theorem State.setRequests_requests (s : State) (bs : List Byte) :
    (s.setRequests bs).requests = bs := rfl

/-! ### Contexts read after an update -/

@[simp] theorem State.decoder_setDecoder_same (s : State) (link : Ref) (d : Decoder) :
    (s.setDecoder link d).decoder link = some d := Slots.find_put_same _ _ _

theorem State.decoder_setDecoder_other (s : State) {link other : Ref} (d : Decoder) (h : other ≠ link) :
    (s.setDecoder link d).decoder other = s.decoder other :=
  Slots.find_put_other (fun e => h (BitVec.eq_of_toNat_eq e)) _ _

@[simp] theorem State.writer_setWriter_same (s : State) (w : Ref) (x : Writer) :
    (s.setWriter w x).writer w = some x := Slots.find_put_same _ _ _

theorem State.writer_setWriter_other (s : State) {w other : Ref} (x : Writer) (h : other ≠ w) :
    (s.setWriter w x).writer other = s.writer other :=
  Slots.find_put_other (fun e => h (BitVec.eq_of_toNat_eq e)) _ _

@[simp] theorem State.setDecoder_setDecoder (s : State) (link : Ref) (d d' : Decoder) :
    (s.setDecoder link d).setDecoder link d' = s.setDecoder link d' := by
  simp [State.setDecoder]

/-! ### Reporting an event -/

@[simp] theorem State.report_none (s : State) (link : Ref) (d : Decoder) : s.report link d none = s := rfl

@[simp] theorem State.report_decoders (s : State) (link : Ref) (d : Decoder) (e : Option Event) :
    (s.report link d e).decoders = s.decoders := by
  unfold State.report
  split
  · rfl
  · rfl
  · split <;> rfl

@[simp] theorem State.report_writers (s : State) (link : Ref) (d : Decoder) (e : Option Event) :
    (s.report link d e).writers = s.writers := by
  unfold State.report
  split
  · rfl
  · rfl
  · split <;> rfl

@[simp] theorem State.report_memory (s : State) (link : Ref) (d : Decoder) (e : Option Event) :
    (s.report link d e).memory = s.memory := by
  unfold State.report
  split
  · rfl
  · rfl
  · split <;> rfl

@[simp] theorem State.report_sent (s : State) (link : Ref) (d : Decoder) (e : Option Event) :
    (s.report link d e).sent = s.sent := by
  unfold State.report
  split
  · rfl
  · rfl
  · split <;> rfl

@[simp] theorem State.report_requests (s : State) (link : Ref) (d : Decoder) (e : Option Event) :
    (s.report link d e).requests = s.requests := by
  unfold State.report
  split
  · rfl
  · rfl
  · split <;> rfl

/-- The events after a report: the old ones, and at most one more, which goes to a consumer of this context. -/
theorem State.report_events (s : State) (link : Ref) (d : Decoder) (e : Option Event) :
    (s.report link d e).events = s.events ∨
      ∃ k ev, e = some ev ∧ (s.report link d e).events = s.events ++ [{ link := link, consumer := k, event := ev }] := by
  unfold State.report
  split
  · exact .inl rfl
  · exact .inr ⟨_, _, rfl, rfl⟩
  · split
    · exact .inl rfl
    · exact .inr ⟨_, _, rfl, rfl⟩

/-! ### Settling and committing the effect of a byte -/

@[simp] theorem State.settle_decoders (s : State) (link : Ref) (e : ByteEffect) :
    (s.settle link e).decoders = Slots.put link.toNat e.decoder s.decoders := by
  simp [State.settle]

@[simp] theorem State.settle_writers (s : State) (link : Ref) (e : ByteEffect) :
    (s.settle link e).writers = s.writers := by
  simp [State.settle]

@[simp] theorem State.settle_memory (s : State) (link : Ref) (e : ByteEffect) :
    (s.settle link e).memory = s.memory := by
  simp [State.settle]

@[simp] theorem State.settle_sent (s : State) (link : Ref) (e : ByteEffect) :
    (s.settle link e).sent = s.sent := by
  simp [State.settle]

@[simp] theorem State.settle_requests (s : State) (link : Ref) (e : ByteEffect) :
    (s.settle link e).requests = s.requests := by
  simp [State.settle]

@[simp] theorem State.settle_result (s : State) (link : Ref) (e : ByteEffect) :
    (s.settle link e).result = .none := by
  simp [State.settle]

@[simp] theorem State.settle_events (s : State) (link : Ref) (e : ByteEffect) :
    (s.settle link e).events = ((s.setDecoder link e.decoder).report link e.decoder e.event).events := by
  simp [State.settle]

@[simp] theorem State.decoder_settle_same (s : State) (link : Ref) (e : ByteEffect) :
    (s.settle link e).decoder link = some e.decoder := by
  simp [State.decoder]

/-- Everything a commit can do: with no store it settles; with a store inside the buffer it stores and settles; with a
store outside the buffer it faults. -/
theorem State.commit_cases (s : State) (link : Ref) (e : ByteEffect) :
    (e.store = none ∧ s.commit link e = .next (s.settle link e)) ∨
    (∃ off b, e.store = some (off, b) ∧ off.toNat < e.decoder.cap.toNat ∧
      s.commit link e = .next ((s.store e.decoder.buf off.toNat b).settle link e)) ∨
    (∃ off b, e.store = some (off, b) ∧ e.decoder.cap.toNat ≤ off.toNat ∧ s.commit link e = .fault .outsideBuffer) := by
  unfold State.commit
  split
  · rename_i h
    exact .inl ⟨h, rfl⟩
  · rename_i off b h
    split
    · rename_i hlt
      exact .inr (.inl ⟨off, b, h, hlt, rfl⟩)
    · rename_i hge
      exact .inr (.inr ⟨off, b, h, by omega, rfl⟩)

/-- Everything that receiving a byte can do: refuse a link without a context, or commit the context's effect. -/
theorem State.receive_cases (s : State) (link : Ref) (b : Byte) :
    (s.decoder link = none ∧ s.receive link b = .refused (.contextNotConstructed link)) ∨
    (∃ d, s.decoder link = some d ∧ s.receive link b = s.commit link (d.receive b)) := by
  unfold State.receive State.onDecoder
  split
  · rename_i h
    exact .inl ⟨h, rfl⟩
  · rename_i d h
    exact .inr ⟨d, h, rfl⟩

/-- Everything that a `DECSTATE` row can do: refuse, or receive the byte in the state it names. -/
theorem State.receiveIn_cases (s : State) (link : Ref) (h : DecState) (b : Byte) :
    (s.decoder link = none ∧ s.receiveIn link h b = .refused (.contextNotConstructed link)) ∨
    (∃ d, s.decoder link = some d ∧ d.state = h ∧ s.receiveIn link h b = s.commit link (d.receive b)) ∨
    (∃ d, s.decoder link = some d ∧ d.state ≠ h ∧ s.receiveIn link h b = .refused (.handlerNotSelected h)) := by
  cases hd : s.decoder link with
  | none => exact .inl ⟨rfl, by simp [State.receiveIn, hd]⟩
  | some d =>
    by_cases hs : d.state = h
    · exact .inr (.inl ⟨d, rfl, hs, by simp [State.receiveIn, State.receive, State.onDecoder, hd, hs]⟩)
    · exact .inr (.inr ⟨d, rfl, hs, by simp [State.receiveIn, hd, hs]⟩)

/-- Everything one received byte can do to its context: sync, the stuffing pre-check, or the selected handler. -/
theorem Decoder.receive_cases (d : Decoder) (b : Byte) :
    (d.syncs b = true ∧ d.receive b = (d.countByte b).sync) ∨
    (d.syncs b = false ∧ d.stuffChecks b = true ∧ d.receive b = (d.countByte b).stuffCheck b) ∨
    (d.syncs b = false ∧ d.stuffChecks b = false ∧ d.receive b = (d.countByte b).handle b) := by
  unfold Decoder.receive
  cases h1 : d.syncs b <;> cases h2 : d.stuffChecks b <;> simp

end Sys2Proof.Machine
end

