-- ==== Sys2Proof/Laws/Effects.lean ====
section
/-!
SUPPORT. The effect of a received byte in the whole state, in closed form, and what every handler leaves as it was.
-/

namespace Sys2Proof.Machine

/-! ### Reports and commits in closed form -/

/-- A report adds what the consumers of the context see of the event. -/
theorem State.report_eq (s : State) (link : Ref) (d : Decoder) (e : Option Event) :
    s.report link d e = { s with events := s.events ++ d.deliveries link e } := by
  unfold State.report Decoder.deliveries
  rcases e with _ | e
  · simp
  · cases e
    · rfl
    · cases h : d.onError <;> simp [State.emit]

/-- Settling writes the context, adds the deliveries and clears the result. -/
theorem State.settle_eq (s : State) (link : Ref) (e : ByteEffect) :
    s.settle link e =
      { s with decoders := Slots.put link.toNat e.decoder s.decoders,
               events := s.events ++ e.decoder.deliveries link e.event, result := .none } := by
  simp [State.settle, State.report_eq, State.setDecoder, State.setResult]

/-- An effect without a store always settles. -/
theorem State.commit_of_store_none (s : State) (link : Ref) (e : ByteEffect) (h : e.store = none) :
    s.commit link e = .next (s.settle link e) := by
  simp [State.commit, h]

/-- Committing an effect does not depend on the context that it replaces. -/
theorem State.commit_setDecoder (s : State) (link : Ref) (d : Decoder) (e : ByteEffect) :
    (s.setDecoder link d).commit link e = s.commit link e := by
  unfold State.commit
  split
  · simp [State.settle_eq]
  · split
    · simp [State.settle_eq, State.store]
    · rfl

/-- The deliveries depend on the two consumer slots only. -/
theorem Decoder.deliveries_congr {d d' : Decoder} (hp : d.onPacket = d'.onPacket) (he : d.onError = d'.onError)
    (link : Ref) (e : Option Event) : d.deliveries link e = d'.deliveries link e := by
  unfold Decoder.deliveries
  rw [hp, he]

/-- The deliveries of one event are at most one, and all of the link. -/
theorem Decoder.deliveries_length (d : Decoder) (link : Ref) (e : Option Event) :
    (d.deliveries link e).length ≤ 1 := by
  unfold Decoder.deliveries
  split
  · simp
  · simp
  · split <;> simp

theorem Decoder.deliveries_link (d : Decoder) (link : Ref) (e : Option Event) :
    ∀ x ∈ d.deliveries link e, x.link = link := by
  unfold Decoder.deliveries
  split
  · simp
  · simp
  · split <;> simp

/-- Receiving a byte on a link that has a context commits the context's effect. -/
theorem State.receive_of_decoder {s : State} {link : Ref} {d : Decoder} (h : s.decoder link = some d) (b : Byte) :
    s.receive link b = s.commit link (d.receive b) := by
  simp [State.receive, State.onDecoder, h]

/-- A `DECSTATE` row receives its byte in the state it names. -/
theorem exec_row (h : DecState) (link : Ref) (b : Byte) (s : State) :
    exec (h.row link b) s = s.receiveIn link h b := by
  cases h <;> rfl

/-- The `DECSTATE` row that `dec.state` selects commits the effect of the byte. -/
theorem exec_row_of_decoder {s : State} {link : Ref} {d : Decoder} (h : s.decoder link = some d) (b : Byte) :
    exec (d.state.row link b) s = s.commit link (d.receive b) := by
  rw [exec_row]
  simp [State.receiveIn, h, State.receive_of_decoder h]

/-- A `DECSTATE` row that `dec.state` does not select is refused. -/
theorem exec_row_not_selected {s : State} {link : Ref} {d : Decoder} (h : s.decoder link = some d) {k : DecState}
    (hk : d.state ≠ k) (b : Byte) : exec (k.row link b) s = .refused (.handlerNotSelected k) := by
  rw [exec_row]
  simp [State.receiveIn, h, hk]

/-- An instruction that presents a byte receives it, in any state or in the state that its row names. -/
theorem exec_receives {i : Instr} {link : Ref} {b : Byte} (hi : receivedBy i = some (link, b)) :
    (∀ s, exec i s = s.receive link b) ∨ ∃ h : DecState, ∀ s, exec i s = s.receiveIn link h b := by
  cases i <;> simp only [receivedBy, Option.some.injEq, Prod.mk.injEq, reduceCtorEq] at hi <;>
    obtain ⟨rfl, rfl⟩ := hi
  all_goals first
    | exact .inl fun _ => rfl
    | exact .inr ⟨_, fun _ => rfl⟩

/-! ### Which bytes reach a handler -/

/-- Stage 3 sees what stages 1 and 2 do not consume. -/
theorem Decoder.reachesHandler_iff (d : Decoder) (b : Byte) :
    d.reachesHandler b = true ↔ d.syncs b = false ∧ d.stuffChecks b = false := by
  simp only [Decoder.reachesHandler, Decoder.syncs, Decoder.stuffChecks, SIGNAL]
  generalize d.sigcnt = n
  by_cases hb : b = 0xAA#8
  · subst hb
    revert n
    decide
  · simp [hb]

/-- A byte that stage 3 sees is counted and handled. -/
theorem Decoder.receive_of_reachesHandler {d : Decoder} {b : Byte} (h : d.reachesHandler b = true) :
    d.receive b = ({ d with sigcnt := d.runAfter b } : Decoder).handle b := by
  obtain ⟨h1, h2⟩ := (d.reachesHandler_iff b).1 h
  have hc : d.countByte b = { d with sigcnt := d.runAfter b } := by
    by_cases hb : b = 0xAA#8
    · have hn : sigcntNext d.sigcnt = d.sigcnt + 1#2 := by
        have h3 : sigcntNext d.sigcnt ≠ 3#2 := by simpa [Decoder.syncs, SIGNAL, hb] using h1
        revert h3
        generalize d.sigcnt = n
        revert n
        decide
      simp [Decoder.countByte, Decoder.runAfter, SIGNAL, hb, hn]
    · simp [Decoder.countByte, Decoder.runAfter, SIGNAL, hb]
  rw [← hc]
  simp [Decoder.receive, h1, h2]

/-! ### What a byte leaves as it was -/

/-- The configuration fields (R28) of the context after an effect. -/
structure Decoder.SameConfig (d d' : Decoder) : Prop where
  buf : d'.buf = d.buf
  cap : d'.cap = d.cap
  onPacket : d'.onPacket = d.onPacket
  onError : d'.onError = d.onError

theorem Decoder.handle_sameConfig (d : Decoder) (b : Byte) : d.SameConfig (d.handle b).decoder := by
  constructor <;> cases hs : d.state <;>
    simp only [Decoder.handle, hs, Decoder.onWaitingSignal, Decoder.onExpectSeparator, Decoder.onExpectSeq,
      Decoder.onExpectCmd, Decoder.onExpectLength, Decoder.onExpectData, Decoder.onExpectCrc,
      Decoder.onExpectTerminator, Decoder.quiet, Decoder.takeError, Decoder.foldCrc, Decoder.clearAcc] <;>
    repeat' split
  all_goals rfl

/-- No byte changes the configuration of a context (R28). -/
theorem Decoder.receive_sameConfig (d : Decoder) (b : Byte) : d.SameConfig (d.receive b).decoder := by
  rcases d.receive_cases b with ⟨_, h⟩ | ⟨_, _, h⟩ | ⟨_, _, h⟩
  · rw [h]
    constructor <;> simp only [Decoder.sync] <;> split <;> rfl
  · rw [h]
    constructor <;> simp only [Decoder.stuffCheck] <;> repeat' split
    all_goals rfl
  · rw [h]
    have := (d.countByte b).handle_sameConfig b
    exact ⟨this.buf, this.cap, this.onPacket, this.onError⟩

/-- Only `expect_data` stores (R52, R53): a handler's store is of its byte, at offset `count`. -/
theorem Decoder.handle_store (d : Decoder) (b : Byte) :
    (d.handle b).store = if d.state = .expectData then some (d.count, b) else none := by
  cases hs : d.state <;>
    simp only [Decoder.handle, hs, Decoder.onWaitingSignal, Decoder.onExpectSeparator, Decoder.onExpectSeq,
      Decoder.onExpectCmd, Decoder.onExpectLength, Decoder.onExpectData, Decoder.onExpectCrc,
      Decoder.onExpectTerminator, Decoder.quiet, Decoder.takeError] <;>
    repeat' split
  all_goals simp_all

/-- The store of a byte: in `expect_data`, of a byte that stage 3 sees, at offset `count`. -/
theorem Decoder.receive_store (d : Decoder) (b : Byte) :
    (d.receive b).store =
      if d.state = .expectData ∧ d.reachesHandler b = true then some (d.count, b) else none := by
  by_cases hr : d.reachesHandler b = true
  · rw [Decoder.receive_of_reachesHandler hr, Decoder.handle_store]
    simp [hr]
  · rw [if_neg (fun h => hr h.2)]
    rcases d.receive_cases b with ⟨_, h⟩ | ⟨_, _, h⟩ | ⟨h1, h2, _⟩
    · rw [h]
      simp only [Decoder.sync]
      split <;> rfl
    · rw [h]
      simp only [Decoder.stuffCheck]
      repeat' split
      all_goals rfl
    · exact absurd ((d.reachesHandler_iff b).2 ⟨h1, h2⟩) hr

/-! ### The consumer and its buffer (R65) -/

/-- An offset of a link's `BUF` is below the capacity of its context (R50). -/
theorem State.bufferAt_eq_some {s : State} {link : Ref} {off : Word} {d : Decoder} :
    s.bufferAt link off = some d ↔ s.decoder link = some d ∧ off.toNat < d.cap.toNat := by
  simp [State.bufferAt, Option.filter_eq_some_iff]

/-- Everything that a consumer's write can do: store one byte at an offset of the link's own `BUF`. -/
theorem State.consumerWrite_cases {s t : State} {link : Ref} {off : Word} {v : Byte}
    (h : s.consumerWrite link off v = some t) :
    ∃ d, s.decoder link = some d ∧ off.toNat < d.cap.toNat ∧ t = s.store d.buf off.toNat v := by
  obtain ⟨d, hd, rfl⟩ := Option.map_eq_some_iff.1 h
  exact ⟨d, (State.bufferAt_eq_some.1 hd).1, (State.bufferAt_eq_some.1 hd).2, rfl⟩

/-- Outside the space there is no such write (R50). -/
theorem State.consumerWrite_outside {s : State} {link : Ref} {off : Word} {d : Decoder} (h : s.decoder link = some d)
    (hoff : d.cap.toNat ≤ off.toNat) (v : Byte) : s.consumerWrite link off v = none := by
  simp [State.consumerWrite, State.bufferAt, h, Option.filter, Nat.not_lt.2 hoff]

/-- The consumer reads back what it wrote. -/
theorem State.consumerRead_consumerWrite {s t : State} {link : Ref} {off : Word} {v : Byte}
    (h : s.consumerWrite link off v = some t) : t.consumerRead link off = some v := by
  obtain ⟨d, hd, hlt, rfl⟩ := State.consumerWrite_cases h
  have hb : (s.store d.buf off.toNat v).bufferAt link off = some d := State.bufferAt_eq_some.2 ⟨hd, hlt⟩
  simp [State.consumerRead, hb]

/-- A consumer's write leaves the bytes of every other link's `BUF` as they were (R36, R65). -/
theorem State.consumerRead_consumerWrite_other {s t : State} (hs : s.Inv) {link other : Ref} {off : Word} {v : Byte}
    (h : s.consumerWrite link off v = some t) (hne : other ≠ link) (off' : Word) :
    t.consumerRead other off' = s.consumerRead other off' := by
  obtain ⟨d, hd, _, rfl⟩ := State.consumerWrite_cases h
  show (s.bufferAt other off').bind _ = (s.bufferAt other off').bind _
  cases hb : s.bufferAt other off' with
  | none => rfl
  | some e =>
    refine Memory.read_write_other _ _ off.isLt off'.isLt fun hh => ?_
    refine hs.buffersApart _ (Slots.mem_of_find (State.bufferAt_eq_some.1 hb).1) _ (Slots.mem_of_find hd) ?_ hh.1
    exact fun e => hne (BitVec.eq_of_toNat_eq e)

/-- A store inside the window of a buffer keeps the invariant. -/
theorem State.Inv.store {s : State} (h : s.Inv) (buf : Ref) {off : Nat} (hoff : off < 2 ^ 32) (v : Byte) :
    (s.store buf off v).Inv where
  decodersWf := h.decodersWf
  writersWf := h.writersWf
  memoryWf := Memory.wf_write _ _ _ _ h.memoryWf
  decoderNames := h.decoderNames
  writerNames := h.writerNames
  memoryInBuffers p hp := by
    rcases Memory.mem_write hp with rfl | hp
    · have := buf.isLt
      simp only [bufAddr]
      omega
    · exact h.memoryInBuffers p hp
  decoderInv := h.decoderInv
  writerCount := h.writerCount
  buffersApart := h.buffersApart
  payloadStored p hp hh i hi := Memory.isSome_read_write _ _ _ _ _ _ (h.payloadStored p hp hh i hi)

/-- A consumer's write keeps the invariant. -/
theorem State.Inv.consumerWrite {s t : State} (hs : s.Inv) {link : Ref} {off : Word} {v : Byte}
    (h : s.consumerWrite link off v = some t) : t.Inv := by
  obtain ⟨d, _, _, rfl⟩ := State.consumerWrite_cases h
  exact hs.store d.buf off.isLt v

end Sys2Proof.Machine
end

