-- ==== Sys2Proof/Laws/PerInstr.lean ====
section
/-!
SUPPORT. What holds of every instruction as syntax, one lemma per row of spec/opcode_table.json: the request of an
instruction begins with its selector, which is one of those that name a row of the table.
-/

namespace Sys2Proof.Laws

/-- The request of the instruction is its selector, below `0x1E`, and then its operands. -/
def SelectorFirst.Statement (i : Instr) : Prop :=
  i.selector.toNat < 0x1E ∧ (encode i).head? = some i.selector ∧ (encode i).length = i.operands.length + 1

theorem SelectorFirst.crcStart : SelectorFirst.Statement (.crcStart) :=
  ⟨by simp [Instr.selector], rfl, rfl⟩

theorem SelectorFirst.crcUpdate (crc : Word) (b : Byte) : SelectorFirst.Statement (.crcUpdate crc b) :=
  ⟨by simp [Instr.selector], rfl, rfl⟩

theorem SelectorFirst.crcFinish (crc : Word) : SelectorFirst.Statement (.crcFinish crc) :=
  ⟨by simp [Instr.selector], rfl, rfl⟩

theorem SelectorFirst.varintEnc (v : Word) : SelectorFirst.Statement (.varintEnc v) :=
  ⟨by simp [Instr.selector], rfl, rfl⟩

theorem SelectorFirst.varintDecStep (acc : Word) (b : Byte) : SelectorFirst.Statement (.varintDecStep acc b) :=
  ⟨by simp [Instr.selector], rfl, rfl⟩

theorem SelectorFirst.wrInit (w : Ref) (sink : Ref) : SelectorFirst.Statement (.wrInit w sink) :=
  ⟨by simp [Instr.selector], rfl, rfl⟩

theorem SelectorFirst.wrByte (w : Ref) (b : Byte) : SelectorFirst.Statement (.wrByte w b) :=
  ⟨by simp [Instr.selector], rfl, rfl⟩

theorem SelectorFirst.encode (sink : Ref) (seq : Word) (cmd : Word) (payload : List Byte) : SelectorFirst.Statement (.encode sink seq cmd payload) :=
  ⟨by simp [Instr.selector], rfl, rfl⟩

theorem SelectorFirst.decNew (link : Ref) (buffer : Ref) (capacity : Word) (onPacket : Ref) (onError : Option Ref) : SelectorFirst.Statement (.decNew link buffer capacity onPacket onError) :=
  ⟨by simp [Instr.selector], rfl, rfl⟩

theorem SelectorFirst.decByte (link : Ref) (b : Byte) : SelectorFirst.Statement (.decByte link b) :=
  ⟨by simp [Instr.selector], rfl, rfl⟩

theorem SelectorFirst.stWaitingSignal (link : Ref) (b : Byte) : SelectorFirst.Statement (.stWaitingSignal link b) :=
  ⟨by simp [Instr.selector], rfl, rfl⟩

theorem SelectorFirst.stExpectSeparator (link : Ref) (b : Byte) : SelectorFirst.Statement (.stExpectSeparator link b) :=
  ⟨by simp [Instr.selector], rfl, rfl⟩

theorem SelectorFirst.stExpectSeq (link : Ref) (b : Byte) : SelectorFirst.Statement (.stExpectSeq link b) :=
  ⟨by simp [Instr.selector], rfl, rfl⟩

theorem SelectorFirst.stExpectCmd (link : Ref) (b : Byte) : SelectorFirst.Statement (.stExpectCmd link b) :=
  ⟨by simp [Instr.selector], rfl, rfl⟩

theorem SelectorFirst.stExpectLength (link : Ref) (b : Byte) : SelectorFirst.Statement (.stExpectLength link b) :=
  ⟨by simp [Instr.selector], rfl, rfl⟩

theorem SelectorFirst.stExpectData (link : Ref) (b : Byte) : SelectorFirst.Statement (.stExpectData link b) :=
  ⟨by simp [Instr.selector], rfl, rfl⟩

theorem SelectorFirst.stExpectCrc (link : Ref) (b : Byte) : SelectorFirst.Statement (.stExpectCrc link b) :=
  ⟨by simp [Instr.selector], rfl, rfl⟩

theorem SelectorFirst.stExpectTerminator (link : Ref) (b : Byte) : SelectorFirst.Statement (.stExpectTerminator link b) :=
  ⟨by simp [Instr.selector], rfl, rfl⟩

theorem SelectorFirst.byteSignal (link : Ref) : SelectorFirst.Statement (.byteSignal link) :=
  ⟨by simp [Instr.selector], rfl, rfl⟩

theorem SelectorFirst.byteStuff (link : Ref) : SelectorFirst.Statement (.byteStuff link) :=
  ⟨by simp [Instr.selector], rfl, rfl⟩

theorem SelectorFirst.byteSeparator (link : Ref) : SelectorFirst.Statement (.byteSeparator link) :=
  ⟨by simp [Instr.selector], rfl, rfl⟩

theorem SelectorFirst.byteTerminator (link : Ref) : SelectorFirst.Statement (.byteTerminator link) :=
  ⟨by simp [Instr.selector], rfl, rfl⟩

theorem SelectorFirst.byteVarintCont (link : Ref) (g : BitVec 7) : SelectorFirst.Statement (.byteVarintCont link g) :=
  ⟨by simp [Instr.selector], rfl, rfl⟩

theorem SelectorFirst.byteVarintLast (link : Ref) (g : BitVec 7) : SelectorFirst.Statement (.byteVarintLast link g) :=
  ⟨by simp [Instr.selector], rfl, rfl⟩

end Sys2Proof.Laws
end

