-- ==== Sys2Proof/Tests/Slice0.lean ====
section
/-!
SUPPORT. Tests of the model, each of one step or of one small function, with the spec's own examples and vectors as the
expected values; and for every statement with hypotheses a state and operands that meet them.
-/

namespace Sys2Proof.Tests

open Sys2Proof.Machine

/-! ### The small states the tests start from -/

/-- A decoder context with a buffer of four bytes and an error consumer. -/
def idle : Decoder :=
  { state := .waitingSignal, seq := 0#32, cmd := 0#32, len := 0#32, count := 0#32, crc := 0#32, crcRx := 0#32,
    crcN := 0#2, sigcnt := 0#2, buf := 5#8, cap := 4#32, onPacket := 7#8, onError := some 9#8 }

/-- A state with this decoder context on link 1, and a writer context 2 bound to sink 6. -/
def one (d : Decoder) : State :=
  { decoders := [(1, d)], writers := [(2, { crc := 0xFFFFFFFF#32, sigcnt := 1#2, sink := 6#8 })], memory := [],
    events := [], sent := [], result := .none, requests := [] }

/-- The same with a second, idle decoder context on link 3, which has buffer 4. -/
def two (d : Decoder) : State :=
  { one d with decoders := [(1, d), (3, { idle with buf := 4#8 })] }

/-- The state of an outcome, if it is a next state. -/
def stateOf (o : Host.Outcome State Fault Refusal) : Option State :=
  match o with
  | .next t => some t
  | .fault _ => none
  | .refused _ => none

theorem next_of_stateOf {o : Host.Outcome State Fault Refusal} (h : (stateOf o).isSome = true) : ∃ t, o = .next t := by
  cases o
  case next t => exact ⟨t, rfl⟩
  all_goals cases h

/-- The context of link 1 after an instruction. -/
def after (i : Instr) (d : Decoder) : Option Decoder :=
  (stateOf (exec i (one d))).bind (fun t => t.decoder 1#8)

/-- The events of an instruction. -/
def eventsOf (i : Instr) (d : Decoder) : Option (List Event) :=
  (stateOf (exec i (one d))).map (fun t => t.events.map Emission.event)

/-- Feeding bytes to the decoder of link 1. -/
def fed (bs : List Byte) (d : Decoder) : Option State :=
  stateOf ((one d).feed 1#8 bs)

theorem inv_one {d : Decoder} (h : d.Inv) (hc : d.count = 0#32) : (one d).Inv := by
  constructor <;> simp [one, Slots.wf, Memory.wf, h, hc]

theorem inv_two {d : Decoder} (h : d.Inv) (hc : d.count = 0#32) (hb : d.buf = 5#8) : (two d).Inv := by
  have hi : ({ idle with buf := 4#8 } : Decoder).Inv := by simp [Decoder.Inv, idle]
  constructor <;> simp [two, one, Slots.wf, Memory.wf, h, hc, hb, hi]
  simp [idle]

/-! ### Well-formedness and decoding -/

/-- R44: a payload of 2^32 bytes has no 32-bit length. -/
theorem test_wellFormed_refuses_long_payload :
    (Instr.encode 0#8 0#32 0#32 (List.replicate (2 ^ 32) 0#8)).wellFormed = false := by
  rw [Instr.wellFormed, List.length_replicate, decide_eq_false_iff_not]
  omega

theorem test_wellFormed_accepts_two_bytes :
    (Instr.encode 0#8 0#32 0#32 [0x68#8, 0x69#8]).wellFormed = true := by decide

theorem test_decode_crcStart : decode [0x00#8] = .ok (.crcStart, []) := rfl

theorem test_decode_crcUpdate : decode [0x01#8, 0x78#8, 0x56#8, 0x34#8, 0x12#8, 0x9A#8] =
    .ok (.crcUpdate 0x12345678#32 0x9A#8, []) := rfl

theorem test_decode_crcFinish : decode [0x02#8, 0x72#8, 0x10#8, 0xFD#8, 0x2D#8] =
    .ok (.crcFinish 0x2DFD1072#32, []) := rfl

theorem test_decode_varintEnc : decode [0x03#8, 0x00#8, 0x40#8, 0x00#8, 0x00#8] = .ok (.varintEnc 16384#32, []) := rfl

theorem test_decode_varintDecStep : decode [0x04#8, 0x80#8, 0x00#8, 0x00#8, 0x00#8, 0x05#8] =
    .ok (.varintDecStep 128#32 0x05#8, []) := rfl

theorem test_decode_wrInit : decode [0x05#8, 0x02#8, 0x06#8] = .ok (.wrInit 2#8 6#8, []) := rfl

theorem test_decode_wrByte : decode [0x06#8, 0x02#8, 0xAA#8] = .ok (.wrByte 2#8 0xAA#8, []) := rfl

theorem test_decode_encode : decode [0x07#8, 0x06#8, 0x01#8, 0x00#8, 0x00#8, 0x00#8, 0x02#8, 0x00#8, 0x00#8, 0x00#8,
    0x02#8, 0x00#8, 0x00#8, 0x00#8, 0x68#8, 0x69#8, 0xFF#8] = .ok (.encode 6#8 1#32 2#32 [0x68#8, 0x69#8], [0xFF#8]) :=
  rfl

theorem test_decode_decNew : decode [0x08#8, 0x01#8, 0x05#8, 0x00#8, 0x10#8, 0x00#8, 0x00#8, 0x07#8, 0x01#8, 0x09#8] =
    .ok (.decNew 1#8 5#8 4096#32 7#8 (some 9#8), []) := rfl

theorem test_decode_decNew_without_error_consumer :
    decode [0x08#8, 0x01#8, 0x05#8, 0x00#8, 0x10#8, 0x00#8, 0x00#8, 0x07#8, 0x00#8, 0x00#8] =
    .ok (.decNew 1#8 5#8 4096#32 7#8 none, []) := rfl

theorem test_decode_decByte : decode [0x09#8, 0x01#8, 0x55#8] = .ok (.decByte 1#8 0x55#8, []) := rfl

theorem test_decode_stWaitingSignal : decode [0x10#8, 0x01#8, 0x12#8] = .ok (.stWaitingSignal 1#8 0x12#8, []) := rfl

theorem test_decode_stExpectSeparator : decode [0x11#8, 0x01#8, 0x00#8] = .ok (.stExpectSeparator 1#8 0x00#8, []) := rfl

theorem test_decode_stExpectSeq : decode [0x12#8, 0x01#8, 0x81#8] = .ok (.stExpectSeq 1#8 0x81#8, []) := rfl

theorem test_decode_stExpectCmd : decode [0x13#8, 0x01#8, 0x02#8] = .ok (.stExpectCmd 1#8 0x02#8, []) := rfl

theorem test_decode_stExpectLength : decode [0x14#8, 0x01#8, 0x05#8] = .ok (.stExpectLength 1#8 0x05#8, []) := rfl

theorem test_decode_stExpectData : decode [0x15#8, 0x01#8, 0x68#8] = .ok (.stExpectData 1#8 0x68#8, []) := rfl

theorem test_decode_stExpectCrc : decode [0x16#8, 0x01#8, 0xBC#8] = .ok (.stExpectCrc 1#8 0xBC#8, []) := rfl

theorem test_decode_stExpectTerminator : decode [0x17#8, 0x01#8, 0x55#8] = .ok (.stExpectTerminator 1#8 0x55#8, []) :=
  rfl

theorem test_decode_byteSignal : decode [0x18#8, 0x01#8] = .ok (.byteSignal 1#8, []) := rfl

theorem test_decode_byteStuff : decode [0x19#8, 0x01#8] = .ok (.byteStuff 1#8, []) := rfl

theorem test_decode_byteSeparator : decode [0x1A#8, 0x01#8] = .ok (.byteSeparator 1#8, []) := rfl

theorem test_decode_byteTerminator : decode [0x1B#8, 0x01#8] = .ok (.byteTerminator 1#8, []) := rfl

theorem test_decode_byteVarintCont : decode [0x1C#8, 0x01#8, 0x81#8] = .ok (.byteVarintCont 1#8 1#7, []) := rfl

theorem test_decode_byteVarintLast : decode [0x1D#8, 0x01#8, 0x02#8] = .ok (.byteVarintLast 1#8 2#7, []) := rfl

/-- R84: the patterns `AA`, `55`, `80`/`80` of the format `BYTE` as table words. -/
theorem test_decode_received_signal : decodeTableWord 8 0xAA = some (.byteSignal 0#8) := rfl

theorem test_decode_received_terminator : decodeTableWord 8 0x55 = some (.byteTerminator 0#8) := rfl

theorem test_decode_received_continuation : decodeTableWord 8 0x80 = some (.byteVarintCont 0#8 0#7) := rfl

/-- A request that ends early, a mask that does not match, a presence byte that is neither 0 nor 1, a reserved code. -/
theorem test_decode_truncated : decode [0x01#8, 0x78#8] = .error .truncated := rfl

theorem test_decode_varint_mask : decode [0x1C#8, 0x01#8, 0x01#8] = .error .malformedOperand := rfl

theorem test_decode_presence_byte :
    decode [0x08#8, 0x01#8, 0x05#8, 0x00#8, 0x10#8, 0x00#8, 0x00#8, 0x07#8, 0x02#8, 0x09#8] =
    .error .malformedOperand := rfl

theorem test_decode_reserved : decode [0x0A#8] = .error (.reservedOp 0xA#4) := rfl

theorem test_decode_unknown_selector : decode [0x1E#8] = .error (.unknownSelector 0x1E#8) := rfl

/-- A placed table word is the next instruction that a step runs. -/
theorem test_step_runs_placed_word :
    step ((one idle).withFetchWord 8 0x00) = exec .crcStart { one idle with requests := List.replicate 14 0#8 } := rfl

/-! ### The CRC-32 engine -/

/-- R101, example. -/
theorem test_crcUpdate_zero_byte : crcUpdate 0xFFFFFFFF#32 0x00#8 = 0x2DFD1072#32 := by decide

/-- R107, the second accumulator of the check string. -/
theorem test_crcUpdate_second_digit : crcUpdate 0x7C231048#32 0x32#8 = 0xB0ACBB32#32 := by decide

/-- R102, example. -/
theorem test_crcFinish_example : crcFinish 0x2DFD1072#32 = 0xD202EF8D#32 := by decide

/-- R107: the check value of "123456789". -/
theorem test_crc32_check_value :
    crc32 [0x31#8, 0x32#8, 0x33#8, 0x34#8, 0x35#8, 0x36#8, 0x37#8, 0x38#8, 0x39#8] = 0xCBF43926#32 := by decide

/-- R104: the table-free form on the example of R101. -/
theorem test_crcUpdateBitwise_example : crcUpdateBitwise 0xFFFFFFFF#32 0x00#8 = 0x2DFD1072#32 := by decide

/-! ### The varint codec -/

/-- SV-1: the source's own example. -/
theorem test_varint_16384 : varintBytes 16384#32 = [0x81#8, 0x80#8, 0x00#8] := by decide

/-- SV-2: the largest value. -/
theorem test_varint_max : varintBytes 0xFFFFFFFF#32 = [0x8F#8, 0xFF#8, 0xFF#8, 0xFF#8, 0x7F#8] := by decide

/-- R123 b: an over-long varint is truncated. -/
theorem test_varint_overlong :
    varintDecode 0#32 [0x90#8, 0x80#8, 0x80#8, 0x80#8, 0x00#8] = (0#32, true, []) := by decide

/-- R121, example: the last byte. -/
theorem test_varintDecStep_last : varintAccumulate 128#32 0x00#8 = 16384#32 ∧ varintDone 0x00#8 = true := by decide

/-! ### The writer and the encoder -/

/-- R141, example: the first signal byte of a fresh writer. -/
theorem test_wrByte_first_signal :
    (Machine.Writer.fresh 6#8).push 0xAA#8 = ({ crc := 0x1BFE5A84#32, sigcnt := 1#2, sink := 6#8 }, [0xAA#8]) := by decide

/-- R141, example: the second signal byte is followed by a stuffing byte. -/
theorem test_wrByte_second_signal :
    (stateOf (exec (.wrByte 2#8 0xAA#8) (one idle))).map State.sent = some [(6#8, 0xAA#8), (6#8, 0x00#8)] := by decide

/-- R140, example. -/
theorem test_wrInit_fresh :
    ((stateOf (exec (.wrInit 2#8 8#8) (one idle))).bind (fun t => t.writer 2#8)) =
      some { crc := 0xFFFFFFFF#32, sigcnt := 0#2, sink := 8#8 } := by decide

/-- R155, example: `ENCODE(sink, 1, 2, [68, 69])`. -/
theorem test_encode_example : encodedFrame 6#8 1#32 2#32 [0x68#8, 0x69#8] =
    [0xAA#8, 0xAA#8, 0xAA#8, 0x00#8, 0x01#8, 0x02#8, 0x02#8, 0x68#8, 0x69#8, 0xBC#8, 0x65#8, 0xAC#8, 0xA5#8, 0x55#8] := by
  decide

set_option maxRecDepth 4096 in
/-- R271, example: a payload that ends in a stuffed pair. -/
theorem test_encode_trailing_pair : encodedFrame 6#8 3#32 1#32 [0x11#8, 0xAA#8, 0xAA#8] =
    [0xAA#8, 0xAA#8, 0xAA#8, 0x00#8, 0x03#8, 0x01#8, 0x03#8, 0x11#8, 0xAA#8, 0xAA#8, 0x00#8, 0xB0#8, 0x94#8, 0xD0#8,
      0xAE#8, 0x55#8] := by decide

/-! ### The decoder -/

/-- R170, example: `DEC_NEW(buf, 4096, consumer, none)`, on a link whose context was in use. -/
theorem test_decNew_example :
    after (.decNew 1#8 5#8 4096#32 7#8 none) { idle with state := .expectCrc, crcN := 2#2, sigcnt := 1#2, crc := 1#32 } =
      some { idle with cap := 4096#32, onError := none } := by decide

/-- R173, example: the third signal byte in the payload. -/
theorem test_decByte_sync :
    after (.decByte 1#8 0xAA#8) { idle with state := .expectData, sigcnt := 2#2, seq := 1#32, len := 3#32, count := 2#32 } =
      some { idle with state := .expectSeparator, sigcnt := 3#2 } := by decide

/-- R225: in `expect_terminator` after two signal bytes the correct terminator is an invalid stuffing byte. -/
theorem test_decByte_terminator_after_pair :
    eventsOf (.decByte 1#8 0x55#8) { idle with state := .expectTerminator, sigcnt := 2#2 } =
      some [.err .invalidStuffByte] := by decide

/-- R176, example. -/
theorem test_stWaitingSignal_ignores : after (.stWaitingSignal 1#8 0x41#8) idle = some idle := by decide

/-- R177, examples. -/
theorem test_stExpectSeparator_match :
    after (.stExpectSeparator 1#8 0x00#8) { idle with state := .expectSeparator, sigcnt := 3#2 } =
      some { idle with state := .expectSeq, crc := 0x2DFD1072#32 } := by decide

theorem test_stExpectSeparator_mismatch :
    eventsOf (.stExpectSeparator 1#8 0x01#8) { idle with state := .expectSeparator } =
      some [.err .invalidSeparatorByte] := by decide

/-- R178, example: the second byte of `81 00`. -/
theorem test_stExpectSeq_last :
    (after (.stExpectSeq 1#8 0x00#8) { idle with state := .expectSeq, seq := 1#32 }).map (fun d => (d.state, d.seq)) =
      some (.expectCmd, 128#32) := by decide

/-- R179, example. -/
theorem test_stExpectCmd_last :
    (after (.stExpectCmd 1#8 0x02#8) { idle with state := .expectCmd }).map (fun d => (d.state, d.cmd)) =
      some (.expectLength, 2#32) := by decide

/-- R180, examples, with capacity 4. -/
theorem test_stExpectLength_too_large :
    (stateOf (exec (.stExpectLength 1#8 0x05#8) (one { idle with state := .expectLength }))).map
      (fun t => (t.events, (t.decoder 1#8).map Decoder.state)) =
      some ([⟨1#8, 9#8, .err .tooLarge⟩], some .waitingSignal) := by decide

theorem test_stExpectLength_fits :
    (after (.stExpectLength 1#8 0x04#8) { idle with state := .expectLength }).map (fun d => (d.state, d.len)) =
      some (.expectData, 4#32) := by decide

/-- R181, example: the last payload byte. -/
theorem test_stExpectData_last :
    (stateOf (exec (.stExpectData 1#8 0x69#8) (one { idle with state := .expectData, len := 2#32, count := 1#32 }))).map
      (fun t => (t.memory.read 5#8 1, (t.decoder 1#8).map Decoder.state)) =
      some (some 0x69#8, some .expectCrc) := by decide

/-- R182, example: the fourth byte of `BC 65 AC A5`. -/
theorem test_stExpectCrc_match :
    (after (.stExpectCrc 1#8 0xA5#8)
      { idle with state := .expectCrc, crc := 0x439A535A#32, crcRx := 0x00BC65AC#32, crcN := 3#2 }).map
      (fun d => (d.state, d.crcRx, d.crcN)) = some (.expectTerminator, 0xBC65ACA5#32, 0#2) := by decide

/-- R271, example: the fourth CRC byte of the trailing pair. -/
theorem test_stExpectCrc_mismatch :
    eventsOf (.stExpectCrc 1#8 0xAE#8)
      { idle with state := .expectCrc, crc := 0xB4DD03A3#32 ^^^ 0xFFFFFFFF#32, crcRx := 0x00B094D0#32, crcN := 3#2 } =
      some [.err .checksumMismatch] := by decide

/-- R183, example. -/
theorem test_stExpectTerminator_match :
    eventsOf (.stExpectTerminator 1#8 0x55#8)
      { idle with state := .expectTerminator, seq := 1#32, cmd := 2#32, len := 2#32, count := 2#32 } =
      some [.pkt 1#32 2#32 (some { buf := 5#8, len := 2#32 }) 2#32] := by decide

/-- R225: the row `ST_EXPECT_TERMINATOR` goes through stages 1 and 2 as `DEC_BYTE` does (R246). -/
theorem test_stExpectTerminator_after_pair :
    eventsOf (.stExpectTerminator 1#8 0x55#8) { idle with state := .expectTerminator, sigcnt := 2#2 } =
      some [.err .invalidStuffByte] := by decide

/-- R172, example: the fourth signal byte of a run syncs again. -/
theorem test_byteSignal_again :
    (stateOf (exec (.byteSignal 1#8) (one { idle with state := .expectSeparator, sigcnt := 3#2 }))).map State.events =
      some [⟨1#8, 9#8, .err .newPacket⟩] := by decide

/-- R175, example: the stuffing byte is folded and discarded. -/
theorem test_byteStuff_folds :
    after (.byteStuff 1#8) { idle with state := .expectData, sigcnt := 2#2, len := 3#32, crc := 0xFFFFFFFF#32 } =
      some { idle with state := .expectData, len := 3#32, crc := 0x2DFD1072#32 } := by decide

/-- R175 corner case a: in `expect_crc` it is not folded. -/
theorem test_byteStuff_in_crc_field :
    after (.byteStuff 1#8) { idle with state := .expectCrc, sigcnt := 2#2, crc := 0xFFFFFFFF#32 } =
      some { idle with state := .expectCrc, crc := 0xFFFFFFFF#32 } := by decide

/-- R177 corner case b. -/
theorem test_byteSeparator_starts :
    after (.byteSeparator 1#8) { idle with state := .expectSeparator, sigcnt := 3#2 } =
      some { idle with state := .expectSeq, crc := 0x2DFD1072#32 } := by decide

/-- R183 and R222: without an error consumer the packet is still delivered. -/
theorem test_byteTerminator_delivers :
    (stateOf (exec (.byteTerminator 1#8) (one { idle with state := .expectTerminator, onError := none }))).map State.events =
      some [⟨1#8, 7#8, .pkt 0#32 0#32 none 0#32⟩] := by decide

/-- R178, example: the first byte of `81 00`. -/
theorem test_byteVarintCont_seq :
    (after (.byteVarintCont 1#8 1#7) { idle with state := .expectSeq }).map (fun d => (d.state, d.seq)) =
      some (.expectSeq, 1#32) := by decide

theorem test_byteVarintLast_cmd :
    (after (.byteVarintLast 1#8 2#7) { idle with state := .expectCmd }).map (fun d => (d.state, d.cmd)) =
      some (.expectLength, 2#32) := by decide

/-- R65, R50: the consumer writes the last byte of its buffer of four, reads it back, and cannot write past the end. -/
theorem test_consumer_last_offset :
    ((one idle).consumerWrite 1#8 3#32 0x68#8).bind (fun t => t.consumerRead 1#8 3#32) = some 0x68#8 := by decide

theorem test_consumer_past_end : (one idle).consumerWrite 1#8 4#32 0x68#8 = none := by decide

/-! ### Reset -/

theorem test_reset_memory_canonical : State.reset.memory.wf = true := by decide

theorem test_reset_tables_canonical : Slots.wf State.reset.decoders = true ∧ Slots.wf State.reset.writers = true := by
  decide

/-! ### Witnesses: the hypotheses of each statement are met, at the boundaries of each clause -/

/-- `DecodeReturnsTheEncodedInstruction`. -/
theorem test_witness_decode :
    (Instr.encode 6#8 1#32 2#32 [0xAA#8]).wellFormed = true ∧ decode [0x00#8] = .ok (.crcStart, []) := ⟨by decide, rfl⟩

/-- `StepRunsTheFirstPendingRequest`, its three clauses. -/
theorem test_witness_step :
    decode ({ one idle with requests := [0x09#8, 0x01#8, 0x55#8] } : State).requests = .ok (.decByte 1#8 0x55#8, []) ∧
    (one idle).requests = [] ∧
    ({ one idle with requests := [0x0F#8] } : State).requests ≠ [] ∧
    decode ({ one idle with requests := [0x0F#8] } : State).requests = .error (.reservedOp 0xF#4) :=
  ⟨rfl, rfl, by decide, rfl⟩

/-- `ReservedOperationCodesAreRefused`, the lowest and the highest code. -/
theorem test_witness_reserved :
    ({ one idle with requests := [0x0A#8] } : State).requests = (0#4 ++ 10#4) :: [] ∧ 10 ≤ (10#4).toNat ∧
    ({ one idle with requests := [0x0F#8] } : State).requests = (0#4 ++ 15#4) :: [] ∧ 10 ≤ (15#4).toNat := by decide

/-- `OneChangedByteChangesTheCrc`. -/
theorem test_witness_changed_byte : (0x00#8 : Byte) ≠ 0x01#8 := by decide

/-- `OverlongVarintIsTruncated`, with no continuation byte, with five, and for its second clause. -/
theorem test_witness_overlong :
    (∀ c ∈ ([] : List Byte), c.msb = true) ∧
    (∀ c ∈ [0xFF#8, 0xFF#8, 0xFF#8, 0xFF#8, (0x80#8 : Byte)], c.msb = true) ∧ (0x7F#8 : Byte).msb = false := by decide

/-- `WriterStuffsAfterASecondSignal`: a writer at each of its two counts. -/
theorem test_witness_writer :
    (one idle).writer 2#8 = some { crc := 0xFFFFFFFF#32, sigcnt := 1#2, sink := 6#8 } ∧
    ((one idle).setWriter 2#8 (Machine.Writer.fresh 6#8)).writer 2#8 = some (Machine.Writer.fresh 6#8) := by decide

/-- `WriterSendsTheStuffedBytes`. -/
theorem test_witness_fresh_writer : ∃ s0, exec (.wrInit 2#8 6#8) (one idle) = .next s0 := ⟨_, rfl⟩

/-- `EncodeSendsExactlyTheFrame`, both sides of the bound, and `FrameLengthFollowsItsFields`. -/
theorem test_witness_payload_lengths :
    ([] : List Byte).length < 2 ^ 32 ∧ (List.replicate (2 ^ 32 - 1) (0#8 : Byte)).length < 2 ^ 32 ∧
    2 ^ 32 ≤ (List.replicate (2 ^ 32) (0#8 : Byte)).length := by
  refine ⟨by decide, ?_, by rw [List.length_replicate]⟩
  rw [List.length_replicate]
  omega

/-- `DecNewConstructsOrResetsAContext`: a fresh link, the own buffer again, and a buffer of another link. -/
theorem test_witness_decNew :
    (∀ p ∈ (two idle).decoders, p.1 ≠ (2#8).toNat → p.2.buf ≠ 8#8) ∧
    (∀ p ∈ (two idle).decoders, p.1 ≠ (1#8).toNat → p.2.buf ≠ 5#8) ∧
    (∃ p ∈ (two idle).decoders, p.1 ≠ (1#8).toNat ∧ p.2.buf = 4#8) := by decide

/-- `ThirdSignalByteSyncs`: the run counter at 2 and at 3, idle and in progress. -/
theorem test_witness_sync :
    (one { idle with sigcnt := 2#2 }).decoder 1#8 = some { idle with sigcnt := 2#2 } ∧ (2#2 : BitVec 2) ≤ 2#2 ∧
    (one { idle with sigcnt := 3#2, state := .expectSeparator }).decoder 1#8 =
      some { idle with sigcnt := 3#2, state := .expectSeparator } ∧ (2#2 : BitVec 2) ≤ 3#2 := by decide

/-- `StuffingByteIsDiscarded` and `WrongByteAfterAPairIsADesync`. -/
theorem test_witness_after_pair :
    (one { idle with sigcnt := 2#2, state := .expectCrc }).decoder 1#8 =
      some { idle with sigcnt := 2#2, state := .expectCrc } ∧ (0x55#8 : Byte) ≠ 0xAA#8 ∧ (0x55#8 : Byte) ≠ 0x00#8 := by
  decide

/-- `OtherBytesReachTheSelectedHandler`: a signal byte at counts 0 and 1, another byte at counts 0, 1 and 3; at the
counts between, stages 1 and 2 consume the byte. -/
theorem test_witness_stage_three :
    (one idle).decoder 1#8 = some idle ∧
    idle.reachesHandler 0xAA#8 = true ∧ ({ idle with sigcnt := 1#2 } : Decoder).reachesHandler 0xAA#8 = true ∧
    ({ idle with sigcnt := 2#2 } : Decoder).reachesHandler 0xAA#8 = false ∧
    idle.reachesHandler 0x41#8 = true ∧ ({ idle with sigcnt := 1#2 } : Decoder).reachesHandler 0x41#8 = true ∧
    ({ idle with sigcnt := 2#2 } : Decoder).reachesHandler 0x41#8 = false ∧
    ({ idle with sigcnt := 3#2 } : Decoder).reachesHandler 0x41#8 = true := by decide

/-- `SeparatorStartsTheHeader` and `TerminatorDeliversThePacket`. -/
theorem test_witness_separator_terminator :
    (one { idle with state := .expectSeparator, sigcnt := 3#2 }).decoder 1#8 =
      some { idle with state := .expectSeparator, sigcnt := 3#2 } ∧ (3#2 : BitVec 2) ≠ 2#2 ∧
    (one { idle with state := .expectTerminator }).decoder 1#8 = some { idle with state := .expectTerminator } ∧
    (0#2 : BitVec 2) ≠ 2#2 := by decide

/-- `VarintRowsAccumulateTheField`: each varint state; the signal byte at counts 0 and 1, other bytes at count 3. -/
theorem test_witness_varint_rows :
    (one { idle with state := .expectSeq }).decoder 1#8 = some { idle with state := .expectSeq } ∧
    (one { idle with state := .expectCmd, sigcnt := 1#2 }).decoder 1#8 =
      some { idle with state := .expectCmd, sigcnt := 1#2 } ∧
    (one { idle with state := .expectLength }).decoder 1#8 = some { idle with state := .expectLength } ∧
    idle.reachesHandler (1#1 ++ 0x2A#7) = true ∧ ({ idle with sigcnt := 1#2 } : Decoder).reachesHandler (1#1 ++ 0x2A#7) = true ∧
    ({ idle with sigcnt := 3#2 } : Decoder).reachesHandler (1#1 ++ 0x2B#7) = true ∧
    ({ idle with sigcnt := 3#2 } : Decoder).reachesHandler (0#1 ++ 0x2A#7) = true := by decide

/-- The clauses of the last length byte, with capacity 4: lengths 0, 4 and 5. -/
theorem test_witness_length_clauses :
    (0#32 <<< 7) ||| (0#7).setWidth 32 = 0#32 ∧ ¬ idle.cap.toNat < ((0#32 <<< 7) ||| (4#7).setWidth 32).toNat ∧
    idle.cap.toNat < ((0#32 <<< 7) ||| (5#7).setWidth 32).toNat := by decide

/-- The eight handler statements (`WaitingSignalIgnoresEveryByte` to `ExpectTerminatorDeliversOrDrops`): a context in
each state, and a byte that reaches the handler. -/
theorem test_witness_handlers : ∀ h : DecState,
    (one { idle with state := h }).decoder 1#8 = some { idle with state := h } ∧
    ({ idle with state := h } : Decoder).reachesHandler 0xAA#8 = true ∧
    ({ idle with state := h } : Decoder).reachesHandler 0x00#8 = true := by
  intro h
  cases h <;> decide

/-- `ExpectDataStoresAtTheCount`: the last offset inside the buffer and the first outside. -/
theorem test_witness_store_bounds :
    ({ idle with state := .expectData, count := 3#32 } : Decoder).count.toNat < idle.cap.toNat ∧
    idle.cap.toNat ≤ ({ idle with state := .expectData, count := 4#32 } : Decoder).count.toNat := by decide

/-- `MissingContextOrHandlerIsRefused`, its three clauses. -/
theorem test_witness_refusals :
    (one idle).decoder 1#8 = some idle ∧ idle.state ≠ .expectData ∧
    (one idle).decoder 0#8 = none ∧ linkOf (.decByte 0#8 0x00#8) = some 0#8 ∧ (one idle).writer 0#8 = none := by decide

/-- `DecoderFollowsTheTransitionTable`, `AbsentErrorConsumerDropsOnlyTheEvent` and `OutputsAreNeverReadBack`: a byte that
raises an error. -/
theorem test_witness_error_byte :
    (one { idle with state := .expectTerminator }).decoder 1#8 = some { idle with state := .expectTerminator } ∧
    ({ idle with state := .expectTerminator } : Decoder).onError = some 9#8 ∧
    ∃ t, exec (.decByte 1#8 0x41#8) (one { idle with state := .expectTerminator }) = .next t :=
  ⟨by decide, by decide, _, rfl⟩

/-- `RunCounterCountsTheTrailingSignals`. -/
theorem test_witness_feed : ∃ s0 t, exec (.decNew 1#8 5#8 4#32 7#8 none) (one idle) = .next s0 ∧
    s0.feed 1#8 [0x13#8, 0xAA#8, 0xAA#8] = .next t := ⟨_, _, rfl, rfl⟩

/-- `DecoderAcceptsEveryByte` and `ThreeSignalsResynchronise`: a context in the middle of a payload. -/
theorem test_witness_mid_payload :
    (one { idle with state := .expectData, len := 4#32 }).Inv ∧
    (one { idle with state := .expectData, len := 4#32 }).decoder 1#8 =
      some { idle with state := .expectData, len := 4#32 } :=
  ⟨inv_one (by simp [Decoder.Inv, idle]) rfl, by decide⟩

/-- `IdleSignalRunReportsEachExtraByte`: the shortest run. -/
theorem test_witness_idle : (one idle).decoder 1#8 = some idle ∧ idle.state = .waitingSignal ∧ idle.sigcnt = 0#2 ∧ 3 ≤ 3 := by
  decide

/-- A context that has received `ENCODE(1, 2, [68])` up to the terminator. -/
def delivering : Decoder :=
  { idle with state := .expectTerminator, seq := 1#32, cmd := 2#32, len := 1#32, count := 1#32 }

/-- The state with that context and its stored byte. -/
def deliveringState : State :=
  { one delivering with memory := [(bufAddr 5#8 0, 0x68#8)] }

theorem inv_deliveringState : deliveringState.Inv := by
  constructor <;>
    simp [deliveringState, one, delivering, idle, Slots.wf, Memory.wf, Decoder.Inv, bufAddr, Memory.read, Slots.find]

/-- `PacketComesOnlyFromATerminator` and `DeliveredViewWasStored`. -/
theorem test_witness_packet : ∃ t, deliveringState.Inv ∧ exec (.decByte 1#8 0x55#8) deliveringState = .next t ∧
    t.events = deliveringState.events ++
      [{ link := 1#8, consumer := 7#8, event := .pkt 1#32 2#32 (some { buf := 5#8, len := 1#32 }) 1#32 }] :=
  ⟨_, inv_deliveringState, rfl, by decide⟩

/-- `KeptValuesAreReadBack` at the ends of a buffer's window. -/
theorem test_witness_offsets : 0 < 2 ^ 32 ∧ 2 ^ 32 - 1 < 2 ^ 32 := by decide

/-- `BufferContentsNeverMatter`: a step that stores, one of the same form that does not, a step that faults and one that
is refused. -/
theorem test_witness_buffers :
    (∃ t, exec (.decByte 1#8 0x68#8) (one { idle with state := .expectData, len := 4#32 }) = .next t) ∧
    storeOf (.decByte 1#8 0x68#8) (one { idle with state := .expectData, len := 4#32, count := 3#32 }) =
      some (5#8, 3, 0x68#8) ∧
    storeOf (.decByte 1#8 0x00#8) (one { idle with state := .expectData, len := 4#32, sigcnt := 2#2 }) = none ∧
    exec (.stExpectData 1#8 0x68#8) (one { idle with state := .expectData, len := 5#32, count := 4#32 }) =
      .fault .outsideBuffer ∧
    exec (.decByte 0#8 0x68#8) (one idle) = .refused (.contextNotConstructed 0#8) :=
  ⟨⟨_, rfl⟩, by decide, by decide, rfl, rfl⟩

/-- `ContextsDoNotAlias` and `BytesOnDifferentLinksCommute`: two links, the one in a payload. -/
theorem test_witness_two_links :
    (two { idle with state := .expectData, len := 4#32 }).Inv ∧ (1#8 : Ref) ≠ 3#8 ∧
    linkOf (.decByte 1#8 0x68#8) ≠ some 3#8 ∧ writerOf (.decByte 1#8 0x68#8) ≠ some 2#8 ∧
    ∃ t u, exec (.decByte 1#8 0x68#8) (two { idle with state := .expectData, len := 4#32 }) = .next t ∧
      exec (.decByte 3#8 0xAA#8) t = .next u :=
  ⟨inv_two (by simp [Decoder.Inv, idle]) rfl rfl, by decide, by decide, by decide, _, _, rfl, rfl⟩

/-- `StepKeepsTheInvariant` and `NoStepStoresOutsideItsBuffer`: a step that stores the last byte of a payload. -/
theorem test_witness_invariant :
    (one { idle with state := .expectData, len := 1#32 }).Inv ∧
    ({ one { idle with state := .expectData, len := 1#32 } with requests := [0x09#8, 0x01#8, 0x68#8] } : State).Inv ∧
    ∃ t, step { one { idle with state := .expectData, len := 1#32 } with requests := [0x09#8, 0x01#8, 0x68#8] } =
      .next t := by
  have h : (one { idle with state := .expectData, len := 1#32 }).Inv := inv_one (by simp [Decoder.Inv, idle]) rfl
  exact ⟨h, ⟨h.1, h.2, h.3, h.4, h.5, h.6, h.7, h.8, h.9, h.10⟩, _, rfl⟩

/-- `CleanFrameIsDelivered`: the frame of the example of R155, and an empty one, on an idle decoder. -/
theorem test_witness_clean_frame :
    (one idle).Inv ∧ (one idle).decoder 1#8 = some idle ∧ [0x68#8, (0x69#8 : Byte)].length ≤ idle.cap.toNat ∧
    frameClean 1#32 2#32 [0x68#8, 0x69#8] = true ∧ frameClean 1#32 2#32 [] = true :=
  ⟨inv_one (by simp [Decoder.Inv, idle]) rfl, by decide, by decide, by decide, by decide⟩

set_option maxRecDepth 4096 in
/-- `UncleanFrameIsNotDelivered`: the two examples of R272. -/
theorem test_witness_unclean_frame :
    (one idle).Inv ∧ [0xA0#8, (0xAA#8 : Byte)].length ≤ idle.cap.toNat ∧ frameClean 160#32 1#32 [0xA0#8, 0xAA#8] = false ∧
    endsStuffed (frameBody 160#32 1#32 [0xA0#8, 0xAA#8]) = false ∧
    frameClean 39344#32 1#32 [0xB0#8, 0xAA#8] = false ∧ noSignalPair (crcField 39344#32 1#32 [0xB0#8, 0xAA#8]) = false ∧
    ∃ t, (one idle).feed 1#8 (frame 160#32 1#32 [0xA0#8, 0xAA#8]) = .next t :=
  ⟨inv_one (by simp [Decoder.Inv, idle]) rfl, by decide, by decide, by decide, by decide, by decide,
    next_of_stateOf (by decide)⟩

set_option maxRecDepth 4096 in
/-- `TrailingPairFailsTheChecksum`: the example of R271. -/
theorem test_witness_trailing_pair :
    (one idle).Inv ∧ (one idle).decoder 1#8 = some idle ∧
    [0x11#8, 0xAA#8, (0xAA#8 : Byte)].length ≤ idle.cap.toNat ∧
    endsStuffed (frameBody 3#32 1#32 [0x11#8, 0xAA#8, 0xAA#8]) = true ∧
    noSignalPair (crcField 3#32 1#32 [0x11#8, 0xAA#8, 0xAA#8]) = true ∧
    crcFold 0xFFFFFFFF#32 (coveredRegion 3#32 1#32 [0x11#8, 0xAA#8, 0xAA#8]).dropLast ≠ 0#32 :=
  ⟨inv_one (by simp [Decoder.Inv, idle]) rfl, by decide, by decide, by decide, by decide, by decide⟩

end Sys2Proof.Tests
end

section
/-!
PROOFS. The scope statements: what one step does with the pending requests (R7, R30, R250), and what stands in the
state after reset (R9, R45).
-/

namespace Sys2Proof.Machine

/-! ### The fetch and the step, a law for each of their three answers -/

@[simp] theorem decode_nil : decode [] = .error .truncated := rfl

theorem State.fetch_of_requests_nil {s : State} (h : s.requests = []) : s.fetch = .idle := by
  simp [State.fetch, h]

/-- The pending bytes cannot be empty here, since no instruction decodes from none. -/
theorem State.fetch_of_decode_ok {s : State} {i : Instr} {rest : List Byte}
    (h : decode s.requests = .ok (i, rest)) : s.fetch = .taken i (s.setRequests rest) := by
  cases hr : s.requests with
  | nil => simp [hr] at h
  | cons b bs =>
    rw [hr] at h
    simp [State.fetch, hr, h]

theorem State.fetch_of_decode_error {s : State} {e : DecodeError} (hne : s.requests ≠ [])
    (h : decode s.requests = .error e) : s.fetch = .bad (refusalOf e) := by
  cases hr : s.requests with
  | nil => exact absurd hr hne
  | cons b bs =>
    rw [hr] at h
    simp [State.fetch, hr, h]

/-- R250: between operations the block holds its state. -/
theorem step_of_requests_nil {s : State} (h : s.requests = []) : step s = .next s := by
  rw [step, State.fetch_of_requests_nil h]

/-- R7, R30: a step is one whole operation, the one its caller asked for first. -/
theorem step_of_decode_ok {s : State} {i : Instr} {rest : List Byte} (h : decode s.requests = .ok (i, rest)) :
    step s = exec i (s.setRequests rest) := by
  rw [step, State.fetch_of_decode_ok h]

theorem step_of_decode_error {s : State} {e : DecodeError} (hne : s.requests ≠ [])
    (h : decode s.requests = .error e) : step s = .refused (refusalOf e) := by
  rw [step, State.fetch_of_decode_error hne h]

/-! ### The state after reset -/

/-- The one context after reset is as `DEC_NEW` leaves it with the parameters `CAP` and `HAS_ON_ERROR` (R45, R9). -/
theorem State.reset_decoder_zero :
    State.reset.decoder 0#8 =
      some (Decoder.fresh 0#8 Config.cap 0#8 (if Config.hasOnError then some 0#8 else none)) := rfl

/-- R45: a writer context does not exist at reset. -/
@[simp] theorem State.reset_writer (w : Ref) : State.reset.writer w = none := rfl

/-- `HAS_ON_ERROR` (R9) has no known value: an error consumer is attached after reset exactly when it is true. -/
theorem isSome_onError_fresh (buffer onPacket consumer : Ref) (capacity : Word) (has : Bool) :
    (Decoder.fresh buffer capacity onPacket (if has then some consumer else none)).onError.isSome = has := by
  cases has with
  | false => rfl
  | true => rfl

end Sys2Proof.Machine

namespace Sys2Proof.Proofs

open Sys2Proof.Machine

/-- Settles O2: the three answers of the fetch, each with its law of the step. -/
theorem stepRunsTheFirstPendingRequest : Obligations.StepRunsTheFirstPendingRequest :=
  ⟨fun _ _ _ h => step_of_decode_ok h, fun _ h => step_of_requests_nil h, fun _ _ hne h => step_of_decode_error hne h⟩

/-- Settles O24: the witness is the fresh context of link 0, whose nine registers are zero by construction; the
parameters `CAP` and `HAS_ON_ERROR` stay unknown. -/
theorem resetHoldsOneZeroDecoder : Obligations.ResetHoldsOneZeroDecoder :=
  ⟨⟨_, State.reset_decoder_zero, rfl, rfl, rfl, rfl, rfl, rfl, rfl, rfl, rfl, rfl, isSome_onError_fresh ..⟩,
    State.reset_writer, rfl, rfl⟩

end Sys2Proof.Proofs
end

section
/-!
PROOFS. What one instruction can do, said once: the commit of a received byte in closed form, and the six kinds of
instruction, each with what it takes to complete and the state it leaves.
-/

namespace Sys2Proof.Machine

/-! ### The commit of an effect in closed form -/

/-- The store of the effect, if it makes one, is at an offset of the space `BUF` of its context (R50). -/
def ByteEffect.Fits (e : ByteEffect) : Prop :=
  ∀ off b, e.store = some (off, b) → off.toNat < e.decoder.cap.toNat

/-- The buffers after the store of the effect, if it makes one (R53). -/
def ByteEffect.storedIn (e : ByteEffect) (m : Memory) : Memory :=
  match e.store with
  | none => m
  | some (off, b) => m.write e.decoder.buf off.toNat b

/-- The state after the effect of one received byte: the store, the context, the deliveries, and no result (R171). -/
def State.committed (s : State) (link : Ref) (e : ByteEffect) : State :=
  { s with decoders := Slots.put link.toNat e.decoder s.decoders, memory := e.storedIn s.memory,
           events := s.events ++ e.decoder.deliveries link e.event, result := .none }

theorem ByteEffect.storedIn_of_store_none {e : ByteEffect} (h : e.store = none) (m : Memory) : e.storedIn m = m := by
  simp [ByteEffect.storedIn, h]

theorem ByteEffect.storedIn_of_store_some {e : ByteEffect} {off : Word} {b : Byte} (h : e.store = some (off, b))
    (m : Memory) : e.storedIn m = m.write e.decoder.buf off.toNat b := by
  simp [ByteEffect.storedIn, h]

theorem ByteEffect.fits_of_store_none {e : ByteEffect} (h : e.store = none) : e.Fits := by
  simp [ByteEffect.Fits, h]

/-- A store leaves the bytes of every buffer but that of its context as they were (R36, R53). -/
theorem ByteEffect.read_storedIn_other (e : ByteEffect) (m : Memory) {buf : Ref} (hne : buf ≠ e.decoder.buf)
    {off : Nat} (hoff : off < 2 ^ 32) : (e.storedIn m).read buf off = m.read buf off := by
  rcases hs : e.store with _ | ⟨o, b⟩
  · rw [ByteEffect.storedIn_of_store_none hs]
  · rw [ByteEffect.storedIn_of_store_some hs, Memory.read_write_other _ _ o.isLt hoff fun h => hne h.1]

/-- Once stored, a byte keeps having a value. -/
theorem ByteEffect.isSome_read_storedIn (e : ByteEffect) {m : Memory} {buf : Ref} {off : Nat}
    (h : (m.read buf off).isSome = true) : ((e.storedIn m).read buf off).isSome = true := by
  rcases hs : e.store with _ | ⟨o, b⟩
  · rwa [ByteEffect.storedIn_of_store_none hs]
  · rw [ByteEffect.storedIn_of_store_some hs]
    exact Memory.isSome_read_write _ _ _ _ _ _ h

theorem State.commit_of_fits (s : State) (link : Ref) {e : ByteEffect} (h : e.Fits) :
    s.commit link e = .next (s.committed link e) := by
  rcases s.commit_cases link e with ⟨hs, hc⟩ | ⟨off, b, hs, _, hc⟩ | ⟨off, b, hs, hge, _⟩
  · rw [hc, State.settle_eq, State.committed, ByteEffect.storedIn_of_store_none hs]
  · rw [hc, State.settle_eq, State.committed, ByteEffect.storedIn_of_store_some hs]
    rfl
  · have := h off b hs
    omega

theorem State.commit_of_not_fits (s : State) (link : Ref) {e : ByteEffect} (h : ¬ e.Fits) :
    s.commit link e = .fault .outsideBuffer := by
  rcases s.commit_cases link e with ⟨hs, _⟩ | ⟨off, b, hs, hlt, _⟩ | ⟨_, _, _, _, hc⟩
  · exact absurd (ByteEffect.fits_of_store_none hs) h
  · refine absurd (fun off' b' hs' => ?_) h
    rw [hs] at hs'
    cases hs'
    exact hlt
  · exact hc

/-- A commit completes in one way only. -/
theorem State.commit_eq_next_iff {s t : State} {link : Ref} {e : ByteEffect} :
    s.commit link e = .next t ↔ e.Fits ∧ t = s.committed link e := by
  by_cases h : e.Fits
  · simp [State.commit_of_fits s link h, h, eq_comm]
  · simp [State.commit_of_not_fits s link h, h]

@[simp] theorem State.decoder_committed_same (s : State) (link : Ref) (e : ByteEffect) :
    (s.committed link e).decoder link = some e.decoder := Slots.find_put_same _ _ _

theorem State.decoder_committed_other (s : State) {link other : Ref} (e : ByteEffect) (h : other ≠ link) :
    (s.committed link e).decoder other = s.decoder other := s.decoder_setDecoder_other e.decoder h

/-! ### The kinds of instruction -/

/-- The six kinds of instruction: one that only answers a value to its caller (R100 to R102, R120, R121), the two
operations of the writer, `ENCODE`, `DEC_NEW`, and one that presents a byte to a decoder. -/
inductive InstrKind : Instr → Prop
  | computes {i : Instr} (r : Result) (hexec : ∀ s, exec i s = .next (s.setResult r)) (hlink : linkOf i = none)
      (hwriter : writerOf i = none) (hbyte : receivedBy i = none) : InstrKind i
  | wrInit (w sink : Ref) : InstrKind (.wrInit w sink)
  | wrByte (w : Ref) (b : Byte) : InstrKind (.wrByte w b)
  | encode (sink : Ref) (seq cmd : Word) (payload : List Byte) : InstrKind (.encode sink seq cmd payload)
  | decNew (link buffer : Ref) (capacity : Word) (onPacket : Ref) (onError : Option Ref) :
      InstrKind (.decNew link buffer capacity onPacket onError)
  | receives {i : Instr} (link : Ref) (b : Byte) (hbyte : receivedBy i = some (link, b)) (hlink : linkOf i = some link)
      (hwriter : writerOf i = none) : InstrKind i

theorem instrKind (i : Instr) : InstrKind i := by
  cases i with
  | wrInit w sink => exact .wrInit w sink
  | wrByte w b => exact .wrByte w b
  | encode sink seq cmd payload => exact .encode sink seq cmd payload
  | decNew link buffer capacity onPacket onError => exact .decNew link buffer capacity onPacket onError
  | crcStart | crcUpdate | crcFinish | varintEnc | varintDecStep => exact .computes _ (fun _ => rfl) rfl rfl rfl
  | _ => exact .receives _ _ rfl rfl rfl

/-! ### When each kind completes, and the state it leaves -/

theorem exec_wrInit (w sink : Ref) (s : State) :
    exec (.wrInit w sink) s = .next ((s.setWriter w (Writer.fresh sink)).setResult .none) := rfl

theorem exec_wrByte {s : State} {w : Ref} {x : Writer} (h : s.writer w = some x) (b : Byte) :
    exec (.wrByte w b) s = .next (((s.setWriter w (x.push b).1).send x.sink (x.push b).2).setResult .none) := by
  simp [exec, execWrByte, h]

theorem exec_wrByte_not_created {s : State} {w : Ref} (h : s.writer w = none) (b : Byte) :
    exec (.wrByte w b) s = .refused (.writerNotCreated w) := by
  simp [exec, execWrByte, h]

theorem exec_wrByte_eq_next {s t : State} {w : Ref} {b : Byte} (h : exec (.wrByte w b) s = .next t) :
    ∃ x, s.writer w = some x ∧ t = ((s.setWriter w (x.push b).1).send x.sink (x.push b).2).setResult .none := by
  cases hx : s.writer w with
  | none => simp [exec_wrByte_not_created hx] at h
  | some x =>
    rw [exec_wrByte hx] at h
    cases h
    exact ⟨x, rfl, rfl⟩

theorem exec_encode {payload : List Byte} (h : payload.length < 2 ^ 32) (sink : Ref) (seq cmd : Word) (s : State) :
    exec (.encode sink seq cmd payload) s =
      .next ((s.send sink (encodedFrame sink seq cmd payload)).setResult .none) := if_pos h

theorem exec_encode_too_long {payload : List Byte} (h : 2 ^ 32 ≤ payload.length) (sink : Ref) (seq cmd : Word)
    (s : State) : exec (.encode sink seq cmd payload) s = .refused .payloadTooLong := if_neg (Nat.not_lt.2 h)

theorem exec_encode_eq_next {s t : State} {sink : Ref} {seq cmd : Word} {payload : List Byte}
    (h : exec (.encode sink seq cmd payload) s = .next t) :
    payload.length < 2 ^ 32 ∧ t = (s.send sink (encodedFrame sink seq cmd payload)).setResult .none := by
  by_cases hlen : payload.length < 2 ^ 32
  · rw [exec_encode hlen] at h
    cases h
    exact ⟨hlen, rfl⟩
  · simp [exec_encode_too_long (Nat.not_lt.1 hlen)] at h

/-- R36, U4: a buffer is taken when the context of another link holds it. -/
theorem State.bufferTaken_iff {s : State} {link buf : Ref} :
    s.bufferTaken link buf = true ↔ ∃ p ∈ s.decoders, p.1 ≠ link.toNat ∧ p.2.buf = buf := by
  simp [State.bufferTaken]

theorem exec_decNew_taken {s : State} {link buffer : Ref} (h : s.bufferTaken link buffer = true) (capacity : Word)
    (onPacket : Ref) (onError : Option Ref) :
    exec (.decNew link buffer capacity onPacket onError) s = .refused (.bufferShared buffer) := by
  simp [exec, execDecNew, h]

theorem exec_decNew_free {s : State} {link buffer : Ref} (h : s.bufferTaken link buffer = false) (capacity : Word)
    (onPacket : Ref) (onError : Option Ref) :
    exec (.decNew link buffer capacity onPacket onError) s =
      .next ((s.setDecoder link (Decoder.fresh buffer capacity onPacket onError)).setResult .none) := by
  simp [exec, execDecNew, h]

theorem exec_decNew_eq_next {s t : State} {link buffer onPacket : Ref} {capacity : Word} {onError : Option Ref}
    (h : exec (.decNew link buffer capacity onPacket onError) s = .next t) :
    s.bufferTaken link buffer = false ∧
      t = (s.setDecoder link (Decoder.fresh buffer capacity onPacket onError)).setResult .none := by
  cases hb : s.bufferTaken link buffer with
  | true => simp [exec_decNew_taken hb] at h
  | false =>
    rw [exec_decNew_free hb] at h
    cases h
    exact ⟨rfl, rfl⟩

/-- An instruction that presents a byte and completes is `DEC_BYTE` of it, in this state and in every other one with
the same context: whether its row is selected depends on the context only. -/
theorem exec_eq_receive_of_next {i : Instr} {s t : State} {link : Ref} {b : Byte}
    (hi : receivedBy i = some (link, b)) (h : exec i s = .next t) {s' : State}
    (hd : s'.decoder link = s.decoder link) : exec i s' = s'.receive link b := by
  rcases exec_receives hi with hr | ⟨k, hr⟩
  · exact hr s'
  · rw [hr] at h ⊢
    rcases s.receiveIn_cases link k b with ⟨_, hn⟩ | ⟨d, hs, hk, _⟩ | ⟨_, _, _, hn⟩
    · simp [hn] at h
    · simp [State.receiveIn, hd, hs, hk]
    · simp [hn] at h

/-- What it takes for a byte to be received, and the state it leaves. -/
theorem exec_receives_eq_next {i : Instr} {s t : State} {link : Ref} {b : Byte}
    (hi : receivedBy i = some (link, b)) (h : exec i s = .next t) :
    ∃ d, s.decoder link = some d ∧ (d.receive b).Fits ∧ t = s.committed link (d.receive b) := by
  rw [exec_eq_receive_of_next hi h rfl] at h
  rcases s.receive_cases link b with ⟨_, hn⟩ | ⟨d, hd, hc⟩
  · simp [hn] at h
  · exact ⟨d, hd, State.commit_eq_next_iff.1 (hc ▸ h)⟩

/-- R265, U3: on a link without a context no byte is received. -/
theorem exec_receives_not_constructed {i : Instr} {s : State} {link : Ref} {b : Byte}
    (hi : receivedBy i = some (link, b)) (hd : s.decoder link = none) :
    exec i s = .refused (.contextNotConstructed link) := by
  rcases exec_receives hi with hr | ⟨k, hr⟩
  · simp [hr, State.receive, State.onDecoder, hd]
  · simp [hr, State.receiveIn, hd]

/-- Everything an instruction that completes can do, kind by kind, with what it takes and the state it leaves. -/
inductive Completes (s : State) : Instr → State → Prop
  | computes {i : Instr} (r : Result) (hexec : ∀ s, exec i s = .next (s.setResult r)) (hlink : linkOf i = none)
      (hwriter : writerOf i = none) (hbyte : receivedBy i = none) : Completes s i (s.setResult r)
  | wrInit (w sink : Ref) :
      Completes s (.wrInit w sink) ((s.setWriter w (Writer.fresh sink)).setResult .none)
  | wrByte (w : Ref) (b : Byte) (x : Writer) (hw : s.writer w = some x) :
      Completes s (.wrByte w b) (((s.setWriter w (x.push b).1).send x.sink (x.push b).2).setResult .none)
  | encode (sink : Ref) (seq cmd : Word) (payload : List Byte) (hlen : payload.length < 2 ^ 32) :
      Completes s (.encode sink seq cmd payload) ((s.send sink (encodedFrame sink seq cmd payload)).setResult .none)
  | decNew (link buffer : Ref) (capacity : Word) (onPacket : Ref) (onError : Option Ref)
      (hfree : s.bufferTaken link buffer = false) :
      Completes s (.decNew link buffer capacity onPacket onError)
        ((s.setDecoder link (Decoder.fresh buffer capacity onPacket onError)).setResult .none)
  | receives {i : Instr} (link : Ref) (b : Byte) (d : Decoder) (hbyte : receivedBy i = some (link, b))
      (hlink : linkOf i = some link) (hwriter : writerOf i = none) (hd : s.decoder link = some d)
      (hfits : (d.receive b).Fits) : Completes s i (s.committed link (d.receive b))

theorem exec_completes {i : Instr} {s t : State} (h : exec i s = .next t) : Completes s i t := by
  cases instrKind i with
  | computes r hexec hlink hwriter hbyte =>
    rw [hexec] at h
    cases h
    exact .computes r hexec hlink hwriter hbyte
  | wrInit w sink =>
    cases h
    exact .wrInit w sink
  | wrByte w b =>
    obtain ⟨x, hw, rfl⟩ := exec_wrByte_eq_next h
    exact .wrByte w b x hw
  | encode sink seq cmd payload =>
    obtain ⟨hlen, rfl⟩ := exec_encode_eq_next h
    exact .encode sink seq cmd payload hlen
  | decNew link buffer capacity onPacket onError =>
    obtain ⟨hfree, rfl⟩ := exec_decNew_eq_next h
    exact .decNew link buffer capacity onPacket onError hfree
  | receives link b hbyte hlink hwriter =>
    obtain ⟨d, hd, hfits, rfl⟩ := exec_receives_eq_next hbyte h
    exact .receives link b d hbyte hlink hwriter hd hfits

/-- `DEC_BYTE` whose store, if any, is inside the buffer completes. -/
theorem exec_decByte_of_fits {s : State} {link : Ref} {d : Decoder} {b : Byte} (hd : s.decoder link = some d)
    (hf : (d.receive b).Fits) : exec (.decByte link b) s = .next (s.committed link (d.receive b)) :=
  (State.receive_of_decoder hd b).trans (s.commit_of_fits link hf)

/-- Nothing faults but a received byte whose store is outside its buffer (R53). -/
theorem exec_eq_fault {i : Instr} {s : State} {f : Fault} (h : exec i s = .fault f) :
    ∃ link b d, s.decoder link = some d ∧ receivedBy i = some (link, b) ∧ ¬ (d.receive b).Fits := by
  cases instrKind i with
  | computes r hexec => simp [hexec] at h
  | wrInit w sink => simp [exec_wrInit] at h
  | wrByte w b =>
    cases hx : s.writer w with
    | none => simp [exec_wrByte_not_created hx] at h
    | some x => simp [exec_wrByte hx] at h
  | encode sink seq cmd payload =>
    rcases Nat.lt_or_ge payload.length (2 ^ 32) with hl | hl
    · simp [exec_encode hl] at h
    · simp [exec_encode_too_long hl] at h
  | decNew link buffer capacity onPacket onError =>
    cases hb : s.bufferTaken link buffer with
    | true => simp [exec_decNew_taken hb] at h
    | false => simp [exec_decNew_free hb] at h
  | receives link b hbyte =>
    cases hd : s.decoder link with
    | none => simp [exec_receives_not_constructed hbyte hd] at h
    | some d =>
      refine ⟨link, b, d, hd, hbyte, fun hf => ?_⟩
      have hrec : s.receive link b = .next (s.committed link (d.receive b)) := exec_decByte_of_fits hd hf
      rcases exec_receives hbyte with hr | ⟨k, hr⟩
      · simp [hr, hrec] at h
      · by_cases hk : d.state = k
        · simp [hr, State.receiveIn, hd, hk, hrec] at h
        · simp [hr, State.receiveIn, hd, hk] at h

end Sys2Proof.Machine
end

section
/-!
PROOFS. What one received byte does to its context, said once: which stage takes the byte, the run counter (R26), the
error consumer (R42), and the transition table (R190).
-/

namespace Sys2Proof.Machine

/-! ### Which stage takes the byte -/

/-- R78, R171: stage 1 or stage 2 consumes the byte, or stage 3 sees it. -/
theorem Decoder.stage_cases (d : Decoder) (b : Byte) :
    d.syncs b = true ∨ d.stuffChecks b = true ∨ d.reachesHandler b = true := by
  rw [Decoder.reachesHandler_iff]
  cases d.syncs b <;> cases d.stuffChecks b <;> simp

theorem Decoder.syncs_iff (d : Decoder) (b : Byte) : d.syncs b = true ↔ b = 0xAA#8 ∧ 2#2 ≤ d.sigcnt := by
  have h : ∀ n : BitVec 2, sigcntNext n = 3#2 ↔ 2#2 ≤ n := by decide
  rw [Decoder.syncs, Bool.and_eq_true, decide_eq_true_eq, decide_eq_true_eq, h]
  rfl

theorem Decoder.stuffChecks_iff (d : Decoder) (b : Byte) :
    d.stuffChecks b = true ↔ b ≠ 0xAA#8 ∧ d.sigcnt = 2#2 := by
  rw [Decoder.stuffChecks, Bool.and_eq_true, decide_eq_true_eq, decide_eq_true_eq]
  rfl

/-- R173, R174: what a byte that syncs does. -/
theorem Decoder.receive_of_syncs {d : Decoder} {b : Byte} (h : d.syncs b = true) :
    d.receive b =
      { decoder := { d with state := .expectSeparator, seq := 0#32, cmd := 0#32, len := 0#32, count := 0#32,
                            crcRx := 0#32, crcN := 0#2, sigcnt := 3#2 },
        store := none, event := if d.state = .waitingSignal then none else some (.err .newPacket) } := by
  obtain ⟨hb, hn⟩ : b = SIGNAL ∧ sigcntNext d.sigcnt = 3#2 := by simpa [Decoder.syncs] using h
  rw [Decoder.receive, if_pos h]
  by_cases hw : d.state = .waitingSignal <;>
    simp [Decoder.sync, Decoder.inProgress, Decoder.countByte, hb, hn, hw, Decoder.takeError, Decoder.clearAcc,
      Decoder.quiet, ErrCode.stateAfter]

/-- R175: what the byte after exactly two signal bytes does, when it is not a signal byte. -/
theorem Decoder.receive_of_stuffChecks {d : Decoder} {b : Byte} (h : d.stuffChecks b = true) :
    d.receive b =
      if b = 0x00#8 then
        { decoder := { d with sigcnt := 0#2, crc := if d.state = .expectCrc then d.crc else crcUpdate d.crc b },
          store := none, event := none }
      else { decoder := { d with sigcnt := 0#2, state := .waitingSignal }, store := none,
             event := some (.err .invalidStuffByte) } := by
  have hb : b ≠ SIGNAL := ((d.stuffChecks_iff b).1 h).1
  have hs : d.syncs b = false := by simp [Decoder.syncs, hb]
  rw [Decoder.receive, if_neg (by simp [hs]), if_pos h, Decoder.stuffCheck]
  by_cases h0 : b = STUFF
  · rw [if_pos h0, if_pos (show b = 0x00#8 from h0)]
    by_cases hc : d.state = .expectCrc <;>
      simp [Decoder.countByte, hb, hc, Decoder.quiet, Decoder.foldCrc]
  · rw [if_neg h0, if_neg (show ¬ b = 0x00#8 from h0)]
    simp [Decoder.countByte, hb, Decoder.takeError, ErrCode.stateAfter]

/-! ### The run counter (R26) -/

/-- No handler writes the run counter, which is stage 1's (R172). -/
theorem Decoder.handle_sigcnt (d : Decoder) (b : Byte) : (d.handle b).decoder.sigcnt = d.sigcnt := by
  cases hs : d.state <;>
    simp only [Decoder.handle, hs, Decoder.onWaitingSignal, Decoder.onExpectSeparator, Decoder.onExpectSeq,
      Decoder.onExpectCmd, Decoder.onExpectLength, Decoder.onExpectData, Decoder.onExpectCrc,
      Decoder.onExpectTerminator, Decoder.quiet, Decoder.takeError, Decoder.foldCrc, Decoder.clearAcc] <;>
    repeat' split
  all_goals rfl

/-- R172: the counter counts a signal byte, up to 3, and any other byte zeroes it. -/
theorem Decoder.receive_sigcnt (d : Decoder) (b : Byte) :
    (d.receive b).decoder.sigcnt = if b = SIGNAL then sigcntNext d.sigcnt else 0#2 := by
  show _ = (d.countByte b).sigcnt
  rcases d.receive_cases b with ⟨_, h⟩ | ⟨_, _, h⟩ | ⟨_, _, h⟩
  · rw [h, Decoder.sync]
    split <;> rfl
  · rw [h, Decoder.stuffCheck]
    repeat' split
    all_goals rfl
  · rw [h, Decoder.handle_sigcnt]

/-! ### The error consumer is only passed on (R42) -/

/-- The same context with another error consumer, or with none. -/
def Decoder.withOnError (d : Decoder) (o : Option Ref) : Decoder :=
  { d with onError := o }

/-- The same effect on a context with another error consumer, or with none. -/
def ByteEffect.withOnError (e : ByteEffect) (o : Option Ref) : ByteEffect :=
  { e with decoder := e.decoder.withOnError o }

theorem ByteEffect.withOnError_ite (c : Prop) [Decidable c] (e e' : ByteEffect) (o : Option Ref) :
    (if c then e else e').withOnError o = if c then e.withOnError o else e'.withOnError o :=
  apply_ite (·.withOnError o) c e e'

theorem Decoder.withOnError_ite (c : Prop) [Decidable c] (d d' : Decoder) (o : Option Ref) :
    (if c then d else d').withOnError o = if c then d.withOnError o else d'.withOnError o :=
  apply_ite (·.withOnError o) c d d'

theorem Decoder.handle_withOnError (d : Decoder) (o : Option Ref) (b : Byte) :
    (d.withOnError o).handle b = (d.handle b).withOnError o := by
  have hstate : (d.withOnError o).state = d.state := rfl
  cases hs : d.state <;> simp only [Decoder.handle, hstate, hs]
  case waitingSignal => rfl
  case expectSeparator =>
    rw [Decoder.onExpectSeparator, Decoder.onExpectSeparator, ByteEffect.withOnError_ite]
    rfl
  case expectSeq =>
    rw [Decoder.onExpectSeq, Decoder.onExpectSeq, ByteEffect.withOnError_ite]
    rfl
  case expectCmd =>
    rw [Decoder.onExpectCmd, Decoder.onExpectCmd, ByteEffect.withOnError_ite]
    rfl
  case expectLength =>
    simp only [Decoder.onExpectLength, ByteEffect.withOnError_ite]
    rfl
  case expectData =>
    simp only [Decoder.onExpectData, ByteEffect.withOnError, Decoder.withOnError_ite]
    rfl
  case expectCrc =>
    simp only [Decoder.onExpectCrc, ByteEffect.withOnError_ite]
    rfl
  case expectTerminator =>
    rw [Decoder.onExpectTerminator, Decoder.onExpectTerminator, ByteEffect.withOnError_ite]
    rfl

/-- R42, R222: no byte's effect depends on the error consumer. -/
theorem Decoder.receive_withOnError (d : Decoder) (o : Option Ref) (b : Byte) :
    (d.withOnError o).receive b = (d.receive b).withOnError o := by
  have hsync : ((d.countByte b).withOnError o).sync = (d.countByte b).sync.withOnError o := by
    rw [Decoder.sync, Decoder.sync, ByteEffect.withOnError_ite]
    rfl
  have hstuff : ((d.countByte b).withOnError o).stuffCheck b = ((d.countByte b).stuffCheck b).withOnError o := by
    simp only [Decoder.stuffCheck, ByteEffect.withOnError_ite]
    rfl
  simp only [Decoder.receive, ByteEffect.withOnError_ite, ← hsync, ← hstuff, ← Decoder.handle_withOnError]
  rfl

/-! ### The transition table (R190) -/

/-- The completion bit of R121 as the table of R190 tests it. -/
theorem varintDone_iff (b : Byte) : varintDone b = true ↔ ¬ 0x80#8 ≤ b := by
  revert b
  decide

theorem Decoder.newLen_eq (d : Decoder) (b : Byte) : d.newLen b = varintAccumulate d.len b := by
  have h : ∀ b : Byte, (b &&& 0x7F#8).setWidth 32 = (b.extractLsb' 0 7).setWidth 32 := by decide
  rw [Decoder.newLen, varintAccumulate, h]

/-- The rows of R190 below its third: what the selected handler does to the state, and its event. -/
theorem Decoder.handle_transition {d : Decoder} {b : Byte} (h : d.reachesHandler b = true) (n : BitVec 2) :
    ((({ d with sigcnt := n } : Decoder).handle b).decoder.state, (({ d with sigcnt := n } : Decoder).handle b).event) =
      d.transition b := by
  obtain ⟨h1, h2⟩ := (d.reachesHandler_iff b).1 h
  rw [Decoder.transition, if_neg (by rw [← Decoder.syncs_iff]; simp [h1])]
  have hrun : ¬ (d.sigcnt = 2#2 ∧ b ≠ 0xAA#8) := fun hc => by
    rw [(d.stuffChecks_iff b).2 hc.symm] at h2
    cases h2
  rw [if_neg (fun hc => hrun ⟨hc.2, by simp [hc.1]⟩), if_neg hrun]
  cases hs : d.state with
  | waitingSignal => simp [Decoder.handle, Decoder.onWaitingSignal, Decoder.quiet]
  | expectSeparator =>
    by_cases hb : b = 0x00#8 <;>
      simp [Decoder.handle, Decoder.onExpectSeparator, SEPARATOR, hb, Decoder.quiet, Decoder.takeError,
        ErrCode.stateAfter]
  | expectSeq =>
    by_cases hb : 0x80#8 ≤ b <;>
      simp [Decoder.handle, Decoder.onExpectSeq, varintDone_iff, hb, Decoder.quiet, Decoder.foldCrc]
  | expectCmd =>
    by_cases hb : 0x80#8 ≤ b <;>
      simp [Decoder.handle, Decoder.onExpectCmd, varintDone_iff, hb, Decoder.quiet, Decoder.foldCrc]
  | expectLength =>
    by_cases hb : 0x80#8 ≤ b
    · simp [Decoder.handle, Decoder.onExpectLength, varintDone_iff, hb, Decoder.quiet, Decoder.foldCrc]
    · simp only [Decoder.handle, Decoder.onExpectLength, varintDone_iff, hb, Decoder.foldCrc, Decoder.newLen_eq,
        not_false_eq_true, if_true, if_false]
      by_cases hcap : d.cap < varintAccumulate d.len b
      · simp [hcap, Decoder.takeError, ErrCode.stateAfter]
      · by_cases h0 : varintAccumulate d.len b = 0#32
        · simp [h0, Decoder.quiet]
        · have hpos : 0#32 < varintAccumulate d.len b := by bv_omega
          simp [hcap, h0, hpos, Decoder.quiet]
  | expectData =>
    by_cases hl : d.count + 1#32 = d.len <;>
      simp [Decoder.handle, Decoder.onExpectData, hl, Decoder.foldCrc]
  | expectCrc =>
    by_cases hn : d.crcN = 3#2
    · by_cases hc : d.crc ^^^ 0xFFFFFFFF#32 = d.newCrcRx b
      · have hc' : crcFinish d.crc = (d.crcRx <<< 8) ||| b.setWidth 32 := hc
        simp only [Decoder.handle, Decoder.onExpectCrc, hn, hc, hc', Decoder.quiet, ne_eq, not_true_eq_false,
          if_true, if_false]
      · have hc' : ¬ crcFinish d.crc = (d.crcRx <<< 8) ||| b.setWidth 32 := hc
        simp only [Decoder.handle, Decoder.onExpectCrc, hn, hc, hc', Decoder.takeError, ErrCode.stateAfter, ne_eq,
          not_true_eq_false, not_false_eq_true, if_true, if_false]
    · simp [Decoder.handle, Decoder.onExpectCrc, hn, Decoder.quiet]
  | expectTerminator =>
    by_cases hb : b = 0x55#8 <;>
      simp [Decoder.handle, Decoder.onExpectTerminator, TERMINATOR, hb, Decoder.payloadView, Decoder.takeError,
        ErrCode.stateAfter]

/-- R190: the state after a byte and the event of the byte are those of the transition table, for every decoder. -/
theorem Decoder.receive_transition (d : Decoder) (b : Byte) :
    ((d.receive b).decoder.state, (d.receive b).event) = d.transition b := by
  rcases d.stage_cases b with hsync | hstuff | hreach
  · rw [Decoder.receive_of_syncs hsync, Decoder.transition, if_pos ((d.syncs_iff b).1 hsync)]
  · obtain ⟨hb, hn⟩ := (d.stuffChecks_iff b).1 hstuff
    have hsync : ¬ (b = 0xAA#8 ∧ 2#2 ≤ d.sigcnt) := fun hc => hb hc.1
    by_cases h0 : b = 0x00#8
    · have hrow : b = 0x00#8 ∧ d.sigcnt = 2#2 := ⟨h0, hn⟩
      rw [Decoder.receive_of_stuffChecks hstuff, if_pos h0, Decoder.transition, if_neg hsync, if_pos hrow]
    · have hrow : ¬ (b = 0x00#8 ∧ d.sigcnt = 2#2) := fun hc => h0 hc.1
      rw [Decoder.receive_of_stuffChecks hstuff, if_neg h0, Decoder.transition, if_neg hsync, if_neg hrow,
        if_pos ⟨hn, hb⟩]
  · rw [Decoder.receive_of_reachesHandler hreach]
    exact Decoder.handle_transition hreach _

theorem Decoder.receive_state (d : Decoder) (b : Byte) : (d.receive b).decoder.state = (d.transition b).1 :=
  congrArg Prod.fst (d.receive_transition b)

theorem Decoder.receive_event (d : Decoder) (b : Byte) : (d.receive b).event = (d.transition b).2 :=
  congrArg Prod.snd (d.receive_transition b)

/-- R192: the one row of the table with a packet. -/
theorem Decoder.transition_packet {d : Decoder} {b : Byte} {seq cmd len : Word} {payload : Option BufView}
    (h : (d.transition b).2 = some (.pkt seq cmd payload len)) :
    b = 0x55#8 ∧ d.state = .expectTerminator ∧ d.sigcnt ≠ 2#2 ∧ (d.transition b).1 = .waitingSignal ∧
      d.seq = seq ∧ d.cmd = cmd ∧ d.len = len ∧
      payload = if len = 0#32 then none else some { buf := d.buf, len := len } := by
  rw [Decoder.transition] at h ⊢
  split at h
  · split at h <;> cases h
  · split at h
    · cases h
    · split at h
      · cases h
      · rename_i hsync hstuff hrun
        rw [if_neg hsync, if_neg hstuff, if_neg hrun]
        cases hs : d.state <;> simp only [hs] at h
        case expectTerminator =>
          split at h
          · rename_i hb
            cases h
            have hn : d.sigcnt ≠ 2#2 := fun hn => hrun ⟨hn, by rw [hb]; decide⟩
            exact ⟨hb, rfl, hn, by rw [if_pos hb], rfl, rfl, rfl, rfl⟩
          · cases h
        all_goals
          repeat' split at h
          all_goals cases h

end Sys2Proof.Machine
end

section
/-!
PROOFS. The invariant of the reachable states (R32): one received byte keeps it for its own context, every instruction
keeps it for the whole state, and under it no store leaves its buffer (R53).
-/

namespace Sys2Proof.Machine

/-! ### One context -/

theorem Decoder.fresh_inv (buf : Ref) (cap : Word) (onPacket : Ref) (onError : Option Ref) :
    (Decoder.fresh buf cap onPacket onError).Inv := trivial

theorem Decoder.fresh_holdsPayload (buf : Ref) (cap : Word) (onPacket : Ref) (onError : Option Ref) :
    (Decoder.fresh buf cap onPacket onError).holdsPayload = false := rfl

/-- R181: a stored byte leaves `expect_data` when the payload is complete, and otherwise leaves it incomplete. -/
theorem Decoder.onExpectData_inv {d : Decoder} (hlt : d.count < d.len) (hcap : d.len ≤ d.cap) (hn : d.crcN = 0#2)
    (hs : d.state = .expectData) (b : Byte) : (d.onExpectData b).decoder.Inv := by
  by_cases hl : d.count + 1#32 = d.len
  · simp [Decoder.onExpectData, Decoder.foldCrc, hl, Decoder.Inv, hcap]
  · have hlt' : d.count + 1#32 < d.len := by bv_omega
    simp [Decoder.onExpectData, Decoder.foldCrc, hl, Decoder.Inv, hs, hcap, hlt', hn]

/-- R180: the completed length is compared with the capacity before any payload byte is counted. -/
theorem Decoder.onExpectLength_inv {d : Decoder} (hc : d.count = 0#32) (hn : d.crcN = 0#2)
    (hs : d.state = .expectLength) (b : Byte) : (d.onExpectLength b).decoder.Inv := by
  cases hv : varintDone b with
  | false => simp [Decoder.onExpectLength, Decoder.foldCrc, hv, Decoder.Inv, Decoder.quiet, hs, hc, hn]
  | true =>
    by_cases hcap : d.cap < varintAccumulate d.len b
    · simp [Decoder.onExpectLength, Decoder.foldCrc, hv, hcap, Decoder.Inv, Decoder.takeError, ErrCode.stateAfter]
    · have hle := BitVec.not_lt.1 hcap
      by_cases hpos : 0#32 < varintAccumulate d.len b
      · simp [Decoder.onExpectLength, Decoder.foldCrc, hv, hcap, hpos, Decoder.Inv, Decoder.quiet, hc, hn, hle]
      · have h0 : varintAccumulate d.len b = 0#32 := by bv_omega
        rw [h0] at hle
        simp [Decoder.onExpectLength, Decoder.foldCrc, hv, h0, Decoder.Inv, Decoder.quiet, hc, hle]

/-- R182: the counter of the field bytes is 0 again when the field is complete. -/
theorem Decoder.onExpectCrc_inv {d : Decoder} (hc : d.count = d.len) (hcap : d.len ≤ d.cap)
    (hs : d.state = .expectCrc) (b : Byte) : (d.onExpectCrc b).decoder.Inv := by
  simp only [Decoder.onExpectCrc]
  split
  · split
    · trivial
    · exact ⟨hc, hcap, rfl⟩
  · simpa [Decoder.Inv, Decoder.quiet, hs] using And.intro hc hcap

/-- Only in `expect_separator` does the invariant speak of the run counter. -/
theorem Decoder.Inv.setRun {d : Decoder} (h : d.Inv) (hs : d.state ≠ .expectSeparator) (n : BitVec 2) :
    ({ d with sigcnt := n } : Decoder).Inv := by
  cases hd : d.state <;> simp only [Decoder.Inv, hd] at h ⊢
  case expectSeparator => exact absurd hd hs
  all_goals exact h

/-- A handler establishes the invariant, and needs none in `expect_separator`, which clears what it speaks of. -/
theorem Decoder.handle_inv {d : Decoder} (h : d.state ≠ .expectSeparator → d.Inv) (b : Byte) :
    (d.handle b).decoder.Inv := by
  cases hs : d.state <;> simp only [Decoder.Inv, hs, ne_eq, reduceCtorEq, not_false_eq_true, forall_const] at h <;>
    simp only [Decoder.handle, hs]
  case waitingSignal => simp [Decoder.onWaitingSignal, Decoder.quiet, Decoder.Inv, hs]
  case expectSeparator =>
    by_cases hb : b = SEPARATOR <;>
      simp [Decoder.onExpectSeparator, hb, Decoder.Inv, Decoder.quiet, Decoder.clearAcc, Decoder.takeError,
        ErrCode.stateAfter]
  case expectSeq =>
    cases hv : varintDone b <;>
      simp [Decoder.onExpectSeq, hv, Decoder.Inv, Decoder.quiet, Decoder.foldCrc, h, hs]
  case expectCmd =>
    cases hv : varintDone b <;>
      simp [Decoder.onExpectCmd, hv, Decoder.Inv, Decoder.quiet, Decoder.foldCrc, h, hs]
  case expectLength => exact Decoder.onExpectLength_inv h.1 h.2 hs b
  case expectData =>
    obtain ⟨hlt, hcap, hn⟩ := h
    exact Decoder.onExpectData_inv hlt hcap hn hs b
  case expectCrc => exact Decoder.onExpectCrc_inv h.1 h.2 hs b
  case expectTerminator =>
    by_cases hb : b = TERMINATOR <;>
      simp [Decoder.onExpectTerminator, hb, Decoder.Inv, Decoder.takeError, ErrCode.stateAfter]

/-- R32: one received byte keeps the invariant of its context. The stuffing pre-check never runs in `expect_separator`,
because the run counter is 3 there (R175 corner case d). -/
theorem Decoder.receive_inv {d : Decoder} (h : d.Inv) (b : Byte) : (d.receive b).decoder.Inv := by
  rcases d.stage_cases b with hsync | hstuff | hreach
  · rw [Decoder.receive_of_syncs hsync]
    exact ⟨rfl, rfl, rfl⟩
  · have hsep : d.state ≠ .expectSeparator := fun hs => by
      simp [Decoder.Inv, hs, ((d.stuffChecks_iff b).1 hstuff).2] at h
    rw [Decoder.receive_of_stuffChecks hstuff]
    split
    · exact h.setRun hsep 0#2
    · trivial
  · rw [Decoder.receive_of_reachesHandler hreach]
    exact Decoder.handle_inv (d := { d with sigcnt := d.runAfter b }) (fun hsep => h.setRun hsep _) b

/-- R53: under the invariant the store of a byte is inside the buffer. -/
theorem Decoder.receive_fits {d : Decoder} (h : d.Inv) (b : Byte) : (d.receive b).Fits := by
  intro off v hs
  rw [Decoder.receive_store] at hs
  split at hs
  · rename_i hd
    cases hs
    simp only [Decoder.Inv, hd.1] at h
    obtain ⟨hlt, hcap, _⟩ := h
    rw [(d.receive_sameConfig b).cap]
    bv_omega
  · cases hs

/-! ### The payload bytes of one context -/

/-- R53, R54: the counted payload bytes of a frame in progress stand in the buffer. -/
def Decoder.PayloadIn (d : Decoder) (m : Memory) : Prop :=
  d.holdsPayload = true → ∀ i < d.count.toNat, (m.read d.buf i).isSome = true

/-- R174: no payload byte of a frame in progress is counted before `expect_data`. -/
theorem Decoder.Inv.count_eq_zero {d : Decoder} (h : d.Inv) (hw : d.state ≠ .waitingSignal)
    (hp : d.holdsPayload ≠ true) : d.count = 0#32 := by
  cases hs : d.state <;> simp only [Decoder.Inv, hs] at h <;> simp [Decoder.holdsPayload, hs] at hp
  case waitingSignal => exact absurd hs hw
  case expectSeparator => exact h.2.1
  all_goals exact h.1

/-- R181: of the handlers, only that of `expect_data` counts. -/
theorem Decoder.handle_count {d : Decoder} (hsep : d.state = .expectSeparator → d.count = 0#32) (b : Byte) :
    (d.handle b).decoder.count = if d.state = .expectData then d.count + 1#32 else d.count := by
  cases hs : d.state <;>
    simp only [Decoder.handle, hs, Decoder.onWaitingSignal, Decoder.onExpectSeparator, Decoder.onExpectSeq,
      Decoder.onExpectCmd, Decoder.onExpectLength, Decoder.onExpectData, Decoder.onExpectCrc,
      Decoder.onExpectTerminator, Decoder.quiet, Decoder.takeError, Decoder.foldCrc, Decoder.clearAcc,
      reduceCtorEq, if_false, if_true] <;>
    repeat' split
  case expectSeparator.isTrue => exact (hsep hs).symm
  all_goals rfl

/-- Where `dec.count` of a frame in progress comes from: it is 0, or what it was, or one more after a store. -/
theorem Decoder.receive_count {d : Decoder} (h : d.Inv) {b : Byte} (hp : (d.receive b).decoder.holdsPayload = true) :
    (d.receive b).decoder.count = 0#32 ∨
    (d.holdsPayload = true ∧ (d.receive b).decoder.count = d.count) ∨
    (d.holdsPayload = true ∧ (d.receive b).decoder.count = d.count + 1#32 ∧
      (d.receive b).store = some (d.count, b)) := by
  rcases d.stage_cases b with hsync | hstuff | hreach
  · rw [Decoder.receive_of_syncs hsync]
    exact .inl rfl
  · rw [Decoder.receive_of_stuffChecks hstuff] at hp ⊢
    split at hp
    · rename_i h0
      rw [if_pos h0]
      exact .inr (.inl ⟨hp, rfl⟩)
    · cases hp
  · have hstore := d.receive_store b
    have hsep : d.state = .expectSeparator → d.count = 0#32 := fun hs =>
      h.count_eq_zero (by simp [hs]) (by simp [Decoder.holdsPayload, hs])
    have hcount : (d.receive b).decoder.count = if d.state = .expectData then d.count + 1#32 else d.count := by
      rw [Decoder.receive_of_reachesHandler hreach]
      exact Decoder.handle_count (d := { d with sigcnt := d.runAfter b }) hsep b
    by_cases hdata : d.state = .expectData
    · rw [if_pos hdata] at hcount
      rw [if_pos ⟨hdata, hreach⟩] at hstore
      exact .inr (.inr ⟨by simp [Decoder.holdsPayload, hdata], hcount, hstore⟩)
    · rw [if_neg hdata] at hcount
      by_cases hd : d.holdsPayload = true
      · exact .inr (.inl ⟨hd, hcount⟩)
      · refine .inl (hcount.trans (h.count_eq_zero (fun hw => ?_) hd))
        rw [Decoder.receive_of_reachesHandler hreach] at hp
        simp [Decoder.handle, hw, Decoder.onWaitingSignal, Decoder.quiet, Decoder.holdsPayload] at hp

/-- R53, R54: one received byte keeps the counted payload bytes in the buffer, the byte it counts among them. -/
theorem Decoder.receive_payloadIn {d : Decoder} {m : Memory} (h : d.Inv) (hm : d.PayloadIn m) (b : Byte) :
    (d.receive b).decoder.PayloadIn ((d.receive b).storedIn m) := by
  intro hp i hi
  have hold : ∀ j, (m.read d.buf j).isSome = true →
      (((d.receive b).storedIn m).read (d.receive b).decoder.buf j).isSome = true := fun j hj => by
    rw [(d.receive_sameConfig b).buf]
    exact ByteEffect.isSome_read_storedIn _ hj
  rcases Decoder.receive_count h hp with hc | ⟨hd, hc⟩ | ⟨hd, hc, hs⟩
  · simp [hc] at hi
  · exact hold i (hm hd i (hc ▸ hi))
  · rw [hc] at hi
    by_cases hil : i < d.count.toNat
    · exact hold i (hm hd i hil)
    · have hie : i = d.count.toNat := by
        have hle : (d.count + 1#32).toNat ≤ d.count.toNat + 1 := by bv_omega
        omega
      rw [ByteEffect.storedIn_of_store_some hs, hie, Memory.read_write_same]
      rfl

/-! ### The whole state -/

/-- R32 is about the tables and the buffers: the outputs, the result and the pending requests do not matter to it. -/
theorem State.Inv.of_same {s t : State} (h : s.Inv) (hd : t.decoders = s.decoders) (hw : t.writers = s.writers)
    (hm : t.memory = s.memory) : t.Inv := by
  obtain ⟨_, _, _, _, _, _, _⟩ := s
  obtain ⟨_, _, _, _, _, _, _⟩ := t
  cases hd
  cases hw
  cases hm
  exact ⟨h.decodersWf, h.writersWf, h.memoryWf, h.decoderNames, h.writerNames, h.memoryInBuffers, h.decoderInv,
    h.writerCount, h.buffersApart, h.payloadStored⟩

theorem State.Inv.setRequests {s : State} (h : s.Inv) (bs : List Byte) : (s.setRequests bs).Inv :=
  h.of_same rfl rfl rfl

theorem State.Inv.decoder {s : State} (h : s.Inv) {link : Ref} {d : Decoder} (hd : s.decoder link = some d) : d.Inv :=
  h.decoderInv _ (Slots.mem_of_find hd)

theorem State.Inv.payloadIn {s : State} (h : s.Inv) {link : Ref} {d : Decoder} (hd : s.decoder link = some d) :
    d.PayloadIn s.memory :=
  h.payloadStored _ (Slots.mem_of_find hd)

/-- R36: the contexts of two links have two buffers. -/
theorem State.Inv.buf_ne {s : State} (h : s.Inv) {link other : Ref} {d e : Decoder} (hd : s.decoder link = some d)
    (he : s.decoder other = some e) (hne : link ≠ other) : d.buf ≠ e.buf :=
  h.buffersApart _ (Slots.mem_of_find hd) _ (Slots.mem_of_find he) fun hn => hne (BitVec.eq_of_toNat_eq hn)

/-- Writing a context keeps the invariant if the context meets it, its payload is stored, and no other context has its
buffer. -/
theorem State.Inv.setDecoder {s : State} (h : s.Inv) {link : Ref} {d : Decoder} (hd : d.Inv)
    (hp : d.PayloadIn s.memory) (hbuf : ∀ p ∈ s.decoders, p.1 ≠ link.toNat → p.2.buf ≠ d.buf) :
    (s.setDecoder link d).Inv where
  decodersWf := Slots.wf_put h.decodersWf
  writersWf := h.writersWf
  memoryWf := h.memoryWf
  decoderNames p hmem := by
    rcases Slots.mem_put hmem with rfl | hmem
    · exact link.isLt
    · exact h.decoderNames p hmem
  writerNames := h.writerNames
  memoryInBuffers := h.memoryInBuffers
  decoderInv p hmem := by
    rcases Slots.mem_put hmem with rfl | hmem
    · exact hd
    · exact h.decoderInv p hmem
  writerCount := h.writerCount
  buffersApart p hpm q hqm hne := by
    rcases Slots.mem_put_wf h.decodersWf hpm with rfl | ⟨hpk, hpm⟩ <;>
      rcases Slots.mem_put_wf h.decodersWf hqm with rfl | ⟨hqk, hqm⟩
    · exact absurd rfl hne
    · exact (hbuf q hqm hqk).symm
    · exact hbuf p hpm hpk
    · exact h.buffersApart p hpm q hqm hne
  payloadStored p hmem := by
    rcases Slots.mem_put hmem with rfl | hmem
    · exact hp
    · exact h.payloadStored p hmem

/-- Writing a writer context keeps the invariant if its counter is 0 or 1 (R32 clause e). -/
theorem State.Inv.setWriter {s : State} (h : s.Inv) (w : Ref) {x : Writer} (hx : x.sigcnt = 0#2 ∨ x.sigcnt = 1#2) :
    (s.setWriter w x).Inv where
  decodersWf := h.decodersWf
  writersWf := Slots.wf_put h.writersWf
  memoryWf := h.memoryWf
  decoderNames := h.decoderNames
  writerNames p hmem := by
    rcases Slots.mem_put hmem with rfl | hmem
    · exact w.isLt
    · exact h.writerNames p hmem
  memoryInBuffers := h.memoryInBuffers
  decoderInv := h.decoderInv
  writerCount p hmem := by
    rcases Slots.mem_put hmem with rfl | hmem
    · exact hx
    · exact h.writerCount p hmem
  buffersApart := h.buffersApart
  payloadStored := h.payloadStored

/-- R141, R32 clause e: the second signal byte in a row leaves the counter at 0. -/
theorem Writer.push_sigcnt {x : Writer} (h : x.sigcnt = 0#2 ∨ x.sigcnt = 1#2) (b : Byte) :
    (x.push b).1.sigcnt = 0#2 ∨ (x.push b).1.sigcnt = 1#2 := by
  by_cases hb : b = SIGNAL
  · rcases h with h | h <;> simp [Writer.push, hb, h]
  · simp [Writer.push, hb]

/-- The store of an effect on a context keeps the invariant (R50). -/
theorem State.Inv.storedIn {s : State} (h : s.Inv) (e : ByteEffect) : { s with memory := e.storedIn s.memory }.Inv := by
  rcases hs : e.store with _ | ⟨off, b⟩
  · rw [ByteEffect.storedIn_of_store_none hs]
    exact h
  · rw [ByteEffect.storedIn_of_store_some hs]
    exact h.store e.decoder.buf off.isLt b

/-- R32: the effect of one received byte on its context keeps the invariant of the whole state. -/
theorem State.Inv.committed {s : State} (h : s.Inv) {link : Ref} {d : Decoder} (hd : s.decoder link = some d)
    (b : Byte) : (s.committed link (d.receive b)).Inv := by
  have hbuf : ∀ p ∈ s.decoders, p.1 ≠ link.toNat → p.2.buf ≠ (d.receive b).decoder.buf := fun p hp hne => by
    rw [(d.receive_sameConfig b).buf]
    exact h.buffersApart p hp _ (Slots.mem_of_find hd) hne
  have hset := (h.storedIn (d.receive b)).setDecoder (Decoder.receive_inv (h.decoder hd) b)
    (Decoder.receive_payloadIn (h.decoder hd) (h.payloadIn hd) b) hbuf
  exact hset.of_same rfl rfl rfl

/-- R32: every instruction that completes keeps the invariant. -/
theorem State.Inv.exec {s t : State} (h : s.Inv) {i : Instr} (hx : exec i s = .next t) : t.Inv := by
  cases exec_completes hx with
  | computes r => exact h.of_same rfl rfl rfl
  | wrInit w sink => exact (h.setWriter w (x := Writer.fresh sink) (.inl rfl)).of_same rfl rfl rfl
  | wrByte w b x hw =>
    have hcount := h.writerCount _ (Slots.mem_of_find hw)
    exact (h.setWriter w (Writer.push_sigcnt hcount b)).of_same rfl rfl rfl
  | encode sink seq cmd payload => exact h.of_same rfl rfl rfl
  | decNew link buffer capacity onPacket onError hfree =>
    have hbuf : ∀ p ∈ s.decoders, p.1 ≠ link.toNat → p.2.buf ≠ buffer := fun p hp hne heq => by
      rw [State.bufferTaken_iff.2 ⟨p, hp, hne, heq⟩] at hfree
      cases hfree
    exact (h.setDecoder (Decoder.fresh_inv ..) (fun hp => nomatch hp) hbuf).of_same rfl rfl rfl
  | receives link b d _ _ _ hd => exact h.committed hd b

/-- R53: under the invariant no instruction faults. -/
theorem State.Inv.exec_ne_fault {s : State} (h : s.Inv) (i : Instr) (f : Fault) : Machine.exec i s ≠ .fault f := by
  intro hx
  obtain ⟨link, b, d, hd, _, hf⟩ := exec_eq_fault hx
  exact hf (Decoder.receive_fits (h.decoder hd) b)

/-- R40: under the invariant a decoder takes every byte. -/
theorem State.Inv.exec_decByte {s : State} (h : s.Inv) {link : Ref} {d : Decoder} (hd : s.decoder link = some d)
    (b : Byte) : Machine.exec (.decByte link b) s = .next (s.committed link (d.receive b)) :=
  exec_decByte_of_fits hd (Decoder.receive_fits (h.decoder hd) b)

/-- Everything a step can do: hold the state, refuse, or run an instruction with its request taken (R7, R250). -/
theorem step_cases (s : State) :
    step s = .next s ∨ (∃ r, step s = .refused r) ∨ ∃ i rest, step s = exec i (s.setRequests rest) := by
  by_cases hne : s.requests = []
  · exact .inl (step_of_requests_nil hne)
  · cases hdec : decode s.requests with
    | error e => exact .inr (.inl ⟨_, step_of_decode_error hne hdec⟩)
    | ok p => exact .inr (.inr ⟨p.1, p.2, step_of_decode_ok hdec⟩)

end Sys2Proof.Machine

namespace Sys2Proof.Proofs

open Sys2Proof.Machine

/-- Settles O56: a step that completes holds the state or runs an instruction, and each kind of instruction keeps the
invariant. -/
theorem stepKeepsTheInvariant : Obligations.StepKeepsTheInvariant := by
  intro s t hs ht
  rcases step_cases s with h | ⟨r, h⟩ | ⟨i, rest, h⟩ <;> rw [h] at ht
  · cases ht
    exact hs
  · cases ht
  · exact (hs.setRequests rest).exec ht

/-- Settles O57: the only fault is a store outside the buffer, and under the invariant every store fits. -/
theorem noStepStoresOutsideItsBuffer : Obligations.NoStepStoresOutsideItsBuffer := by
  intro s f hs ht
  rcases step_cases s with h | ⟨r, h⟩ | ⟨i, rest, h⟩ <;> rw [h] at ht
  · cases ht
  · cases ht
  · exact (hs.setRequests rest).exec_ne_fault i f ht

/-- Settles O55: the one context after reset is in `waiting_signal`, where R32 asks nothing of it. -/
theorem resetSatisfiesTheInvariant : Obligations.ResetSatisfiesTheInvariant where
  decodersWf := rfl
  writersWf := rfl
  memoryWf := rfl
  decoderNames := by simp [State.reset]
  writerNames := by simp [State.reset]
  memoryInBuffers := by simp [State.reset]
  decoderInv := by simp [State.reset, Decoder.fresh_inv]
  writerCount := by simp [State.reset]
  buffersApart := by simp [State.reset]
  payloadStored := by simp [State.reset, Decoder.fresh_holdsPayload]

/-- Settles O44: each of these instructions is the reception of a byte in a state that runs it, and under the invariant
the effect of a byte fits. -/
theorem decoderAcceptsEveryByte : Obligations.DecoderAcceptsEveryByte := by
  intro s link d hs hd
  have takes (b : Byte) : s.receive link b = .next (s.committed link (d.receive b)) := hs.exec_decByte hd b
  have row (b : Byte) : exec (d.state.row link b) s = .next (s.committed link (d.receive b)) :=
    (exec_row_of_decoder hd b).trans (s.commit_of_fits link (Decoder.receive_fits (hs.decoder hd) b))
  exact ⟨fun b => ⟨⟨_, takes b⟩, _, row b⟩, ⟨_, takes SIGNAL⟩, ⟨_, takes STUFF⟩, ⟨_, takes SEPARATOR⟩,
    ⟨_, takes TERMINATOR⟩, fun g => ⟨⟨_, takes (varintByte true g)⟩, _, takes (varintByte false g)⟩⟩

end Sys2Proof.Proofs
end

section
/-!
PROOFS. The state statements: what construction, refusal, reading back and a delivery do (R23, R25, R36, R41), the run
counter over any bytes (R26), the error consumer (R42), the outputs (R33, R43), the frame `ENCODE` sends (R155), and
which contexts an instruction leaves alone (R36, R249).
-/

namespace Sys2Proof.Machine

/-! ### What the other instructions leave as it was -/

/-- R52, R57: an instruction that presents no byte to a decoder emits nothing and stores nothing. -/
theorem exec_events_memory_of_not_receives {i : Instr} {s t : State} (hi : receivedBy i = none)
    (hx : exec i s = .next t) : t.events = s.events ∧ t.memory = s.memory := by
  cases exec_completes hx with
  | receives link b d hbyte => simp [hbyte] at hi
  | _ => exact ⟨rfl, rfl⟩

theorem linkOf_of_receivedBy {i : Instr} {link : Ref} {b : Byte} (hi : receivedBy i = some (link, b)) :
    linkOf i = some link := by
  cases instrKind i with
  | computes r _ _ _ hbyte => simp [hbyte] at hi
  | receives l c hbyte hlink =>
    rw [hbyte] at hi
    cases hi
    exact hlink
  | _ => cases hi

/-- An instruction that names a link constructs its context or presents a byte to it. -/
theorem receivedBy_of_linkOf {i : Instr} {link : Ref} (hi : linkOf i = some link)
    (hnew : ∀ buffer capacity onPacket onError, i ≠ .decNew link buffer capacity onPacket onError) :
    ∃ b, receivedBy i = some (link, b) := by
  cases instrKind i with
  | computes r _ hlink => simp [hlink] at hi
  | decNew l buffer capacity onPacket onError =>
    cases hi
    exact absurd rfl (hnew buffer capacity onPacket onError)
  | receives l b hbyte hlink =>
    rw [hlink] at hi
    cases hi
    exact ⟨b, hbyte⟩
  | _ => cases hi

/-- R36: only the decoder context that the instruction names is written. -/
theorem exec_decoder_other {i : Instr} {s t : State} (hx : exec i s = .next t) {link : Ref}
    (hi : linkOf i ≠ some link) : t.decoder link = s.decoder link := by
  cases exec_completes hx with
  | decNew l => exact s.decoder_setDecoder_other _ fun h => hi (congrArg some h.symm)
  | receives l b d _ hlink => exact s.decoder_committed_other _ fun h => hi (hlink.trans (congrArg some h.symm))
  | _ => rfl

/-- R36: only the writer context that the instruction names is written. -/
theorem exec_writer_other {i : Instr} {s t : State} (hx : exec i s = .next t) {w : Ref} (hi : writerOf i ≠ some w) :
    t.writer w = s.writer w := by
  cases exec_completes hx with
  | wrInit w' => exact s.writer_setWriter_other _ fun h => hi (congrArg some h.symm)
  | wrByte w' => exact s.writer_setWriter_other _ fun h => hi (congrArg some h.symm)
  | _ => rfl

/-- R246: the decoder contexts are written by `DEC_NEW` and by `DEC_BYTE` of the byte presented, and by nothing else. -/
theorem exec_decoders {i : Instr} {s t : State} (hx : exec i s = .next t) :
    t.decoders = s.decoders ∨
      (∃ link buffer capacity onPacket onError, i = .decNew link buffer capacity onPacket onError) ∨
      ∃ link b, receivedBy i = some (link, b) ∧ exec (.decByte link b) s = .next t := by
  cases exec_completes hx with
  | decNew link buffer capacity onPacket onError => exact .inr (.inl ⟨link, buffer, capacity, onPacket, onError, rfl⟩)
  | receives link b _ hbyte => exact .inr (.inr ⟨link, b, hbyte, (exec_eq_receive_of_next hbyte hx rfl).symm.trans hx⟩)
  | _ => exact .inl rfl

/-! ### Packets (R41, R192) -/

/-- A packet is delivered to the packet consumer of its context. -/
theorem Decoder.deliveries_eq_packet {d : Decoder} {l link k : Ref} {e : Option Event} {seq cmd len : Word}
    {payload : Option BufView}
    (h : d.deliveries l e = [{ link := link, consumer := k, event := .pkt seq cmd payload len }]) :
    l = link ∧ d.onPacket = k ∧ e = some (.pkt seq cmd payload len) := by
  unfold Decoder.deliveries at h
  split at h
  · cases h
  · cases h
    exact ⟨rfl, rfl, rfl⟩
  · split at h <;> cases h

/-- A packet comes from a byte that the context of its link receives. -/
theorem exec_packet {i : Instr} {s t : State} {link k : Ref} {seq cmd len : Word} {payload : Option BufView}
    (hx : exec i s = .next t)
    (hev : t.events = s.events ++ [{ link := link, consumer := k, event := .pkt seq cmd payload len }]) :
    ∃ b d, receivedBy i = some (link, b) ∧ s.decoder link = some d ∧ t = s.committed link (d.receive b) ∧
      (d.transition b).2 = some (.pkt seq cmd payload len) ∧ d.onPacket = k := by
  rcases hr : receivedBy i with _ | ⟨l, b⟩
  · rw [(exec_events_memory_of_not_receives hr hx).1] at hev
    simp at hev
  · obtain ⟨d, hd, _, rfl⟩ := exec_receives_eq_next hr hx
    obtain ⟨rfl, hk, he⟩ := Decoder.deliveries_eq_packet (List.append_cancel_left hev)
    exact ⟨b, d, rfl, hd, rfl, d.receive_event b ▸ he, (d.receive_sameConfig b).onPacket ▸ hk⟩

/-- R84, R190: a `DECSTATE` row that completes is the one that `dec.state` selects. -/
theorem state_of_exec_row {s t : State} {link : Ref} {d : Decoder} {b : Byte} (h : DecState)
    (hd : s.decoder link = some d) (hx : exec (h.row link b) s = .next t) : d.state = h := by
  by_contra hne
  simp [exec_row_not_selected hd hne] at hx

/-- R73: `55` is a varint byte with `C` = 0 and group `55`. -/
theorem group_of_terminator : ∀ g : BitVec 7, 0#1 ++ g = 0x55#8 → g = 0x55#7 := by decide

theorem cont_ne_terminator : ∀ g : BitVec 7, 1#1 ++ g ≠ 0x55#8 := by decide

/-- R78, R183: the instructions that can be the terminator of a frame. -/
theorem instr_of_terminator {i : Instr} {s t : State} {link : Ref} {d : Decoder}
    (hi : receivedBy i = some (link, 0x55#8)) (hd : s.decoder link = some d) (hs : d.state = .expectTerminator)
    (hx : exec i s = .next t) :
    i = .decByte link 0x55#8 ∨ i = .stExpectTerminator link 0x55#8 ∨ i = .byteTerminator link ∨
      i = .byteVarintLast link 0x55#7 := by
  have other (h : DecState) (hne : h ≠ .expectTerminator) : exec (h.row link 0x55#8) s ≠ .next t := fun hrow =>
    hne ((state_of_exec_row h hd hrow).symm.trans hs)
  cases i <;> simp only [receivedBy, Option.some.injEq, Prod.mk.injEq, reduceCtorEq] at hi <;>
    obtain ⟨rfl, hb⟩ := hi
  case decByte => exact .inl (by rw [hb])
  case stExpectTerminator => exact .inr (.inl (by rw [hb]))
  case byteTerminator => exact .inr (.inr (.inl rfl))
  case byteVarintLast g => exact .inr (.inr (.inr (by rw [group_of_terminator g hb])))
  case byteVarintCont g => exact absurd hb (cont_ne_terminator g)
  case byteSignal | byteStuff | byteSeparator => exact absurd hb (by decide)
  case stWaitingSignal => exact absurd (hb ▸ hx) (other .waitingSignal (by decide))
  case stExpectSeparator => exact absurd (hb ▸ hx) (other .expectSeparator (by decide))
  case stExpectSeq => exact absurd (hb ▸ hx) (other .expectSeq (by decide))
  case stExpectCmd => exact absurd (hb ▸ hx) (other .expectCmd (by decide))
  case stExpectLength => exact absurd (hb ▸ hx) (other .expectLength (by decide))
  case stExpectData => exact absurd (hb ▸ hx) (other .expectData (by decide))
  case stExpectCrc => exact absurd (hb ▸ hx) (other .expectCrc (by decide))

/-! ### The run counter over any bytes (R26) -/

theorem trailingSignals_concat (bs : List Byte) (b : Byte) :
    trailingSignals (bs ++ [b]) = if b = SIGNAL then trailingSignals bs + 1 else 0 := by
  by_cases hb : b = SIGNAL <;> simp [trailingSignals, hb]

theorem toNat_sigcntNext (n : BitVec 2) : (sigcntNext n).toNat = min (n.toNat + 1) 3 := by
  revert n
  decide

/-- R26 for one byte more. -/
theorem Decoder.receive_counts_run {d : Decoder} {bs : List Byte} (h : d.sigcnt.toNat = min (trailingSignals bs) 3)
    (b : Byte) : (d.receive b).decoder.sigcnt.toNat = min (trailingSignals (bs ++ [b])) 3 := by
  rw [Decoder.receive_sigcnt, trailingSignals_concat]
  split
  · rw [toNat_sigcntNext, h]
    omega
  · rfl

/-- R26: if the counter counts the run at the end of what was received, it does so after any more bytes. -/
theorem State.feed_counts_run {link : Ref} {t : State} (bs : List Byte) :
    ∀ {s : State} {d : Decoder} {before : List Byte}, s.decoder link = some d →
      d.sigcnt.toNat = min (trailingSignals before) 3 → s.feed link bs = .next t →
      ∃ d', t.decoder link = some d' ∧ d'.sigcnt.toNat = min (trailingSignals (before ++ bs)) 3 := by
  induction bs with
  | nil =>
    intro s d before hd hn hf
    cases hf
    exact ⟨d, hd, by rwa [List.append_nil]⟩
  | cons b rest ih =>
    intro s d before hd hn hf
    rw [State.feed] at hf
    split at hf
    · rename_i u hu
      obtain ⟨e, he, _, rfl⟩ := exec_receives_eq_next (i := .decByte link b) rfl hu
      rw [hd] at he
      cases he
      have := ih (s.decoder_committed_same link _) (Decoder.receive_counts_run hn b) hf
      rwa [List.append_assoc] at this
    · cases hf
    · cases hf

/-! ### A context without an error consumer (R42, R222) -/

theorem Decoder.withOnError_deliveries_err (d : Decoder) (link : Ref) (c : ErrCode) :
    (d.withOnError none).deliveries link (some (.err c)) = [] := rfl

theorem Decoder.withOnError_deliveries_of_not_err (d : Decoder) (link : Ref) (o : Option Ref) {e : Option Event}
    (h : ∀ c, e ≠ some (.err c)) : (d.withOnError o).deliveries link e = d.deliveries link e := by
  rcases e with _ | ⟨_⟩ | c
  · rfl
  · rfl
  · exact absurd rfl (h c)

/-- The same effect on a context with another error consumer: only that consumer and the deliveries differ. -/
theorem State.committed_withOnError (s : State) (link : Ref) (d : Decoder) (e : ByteEffect) (o : Option Ref) :
    (s.setDecoder link d).committed link (e.withOnError o) =
      { (s.committed link e).setDecoder link (e.decoder.withOnError o) with
          events := s.events ++ (e.decoder.withOnError o).deliveries link e.event } := by
  simp only [State.committed, State.setDecoder, Slots.put_put]
  rfl

/-! ### The writer inside `ENCODE` (R141, R143, R155) -/

/-- The accumulator covers every byte sent, stuffing included (R23). -/
theorem Writer.push_crc (x : Writer) (b : Byte) : (x.push b).1.crc = crcFold x.crc (x.push b).2 := by
  simp only [Writer.push]
  repeat' split
  all_goals rfl

theorem Writer.pushAll_crc (bs : List Byte) :
    ∀ x : Writer, (x.pushAll bs).1.crc = crcFold x.crc (x.pushAll bs).2 := by
  induction bs with
  | nil => exact fun x => rfl
  | cons b rest ih =>
    intro x
    rw [Writer.pushAll, ih, Writer.push_crc]
    exact List.foldl_append.symm

/-- R141: a byte that is not `SIGNAL` is sent alone and zeroes the counter, whatever the counter was. -/
theorem Writer.push_of_ne_signal (x : Writer) {b : Byte} (h : b ≠ SIGNAL) :
    x.push b = ({ x with crc := crcUpdate x.crc b, sigcnt := 0#2 }, [b]) := by
  simp [Writer.push, h]

/-- R141: the first signal byte of a pair is sent alone and counted. -/
theorem Writer.push_first_signal {x : Writer} (h : x.sigcnt = 0#2) :
    x.push SIGNAL = ({ x with crc := crcUpdate x.crc SIGNAL, sigcnt := 1#2 }, [SIGNAL]) := by
  simp [Writer.push, h]

/-- R141: the second signal byte of a pair is followed by the inserted byte, and the count restarts. -/
theorem Writer.push_second_signal {x : Writer} (h : x.sigcnt = 1#2) :
    x.push SIGNAL =
      ({ x with crc := crcUpdate (crcUpdate x.crc SIGNAL) STUFF, sigcnt := 0#2 }, [SIGNAL, STUFF]) := by
  simp [Writer.push, h]

/-- R143: a writer whose counter is 0 sends the stuffed form of what is written. -/
theorem Writer.pushAll_sends_stuffed (bs : List Byte) :
    ∀ x : Writer, x.sigcnt = 0#2 → (x.pushAll bs).2 = stuffed bs := by
  induction bs using stuffed.induct with
  | case1 => exact fun x _ => rfl
  | case2 a =>
    intro x hx
    by_cases ha : a = SIGNAL
    · subst ha
      simp [Writer.pushAll, Writer.push_first_signal hx, stuffed]
    · simp [Writer.pushAll, x.push_of_ne_signal ha, stuffed]
  | case3 a b rest hpair ih =>
    intro x hx
    obtain ⟨rfl, rfl⟩ := hpair
    rw [stuffed, if_pos ⟨rfl, rfl⟩, Writer.pushAll, Writer.push_first_signal hx, Writer.pushAll,
      Writer.push_second_signal rfl, ih _ rfl]
    rfl
  | case4 a b rest hpair ih =>
    intro x hx
    rw [stuffed, if_neg hpair]
    by_cases ha : a = SIGNAL
    · subst ha
      have hb : b ≠ SIGNAL := fun hb => hpair ⟨rfl, hb⟩
      have hrest := ih { x with crc := crcUpdate x.crc SIGNAL, sigcnt := 0#2 } rfl
      rw [Writer.pushAll, Writer.push_of_ne_signal _ hb] at hrest
      rw [Writer.pushAll, Writer.push_first_signal hx, Writer.pushAll, Writer.push_of_ne_signal _ hb, ← hrest]
      rfl
    · rw [Writer.pushAll, x.push_of_ne_signal ha, ih _ rfl]
      rfl

/-- R155 sends the frame that R70 lays out. -/
theorem encodedFrame_eq_frame (sink : Ref) (seq cmd : Word) (payload : List Byte) :
    encodedFrame sink seq cmd payload = frame seq cmd payload := by
  simp only [encodedFrame, Writer.pushAll_crc, Writer.pushAll_sends_stuffed _ (Writer.fresh sink) rfl]
  rfl

end Sys2Proof.Machine

namespace Sys2Proof.Proofs

open Sys2Proof.Machine

/-- Settles O21: the writer inside `ENCODE` sends the stuffed body, and its CRC is that of the covered region. -/
theorem encodeSendsExactlyTheFrame : Obligations.EncodeSendsExactlyTheFrame := by
  refine fun s sink seq cmd payload => ⟨fun h => ?_, fun h => exec_encode_too_long h sink seq cmd s⟩
  rw [exec_encode h, encodedFrame_eq_frame]
  rfl

/-- Settles O43: the counter counts a run of no bytes after `DEC_NEW`, and every byte fed keeps it counting. -/
theorem runCounterCountsTheTrailingSignals : Obligations.RunCounterCountsTheTrailingSignals := by
  intro s s0 t link buffer onPacket capacity onError bs hnew hfeed
  obtain ⟨_, rfl⟩ := exec_decNew_eq_next hnew
  have hfresh : ((s.setDecoder link (Decoder.fresh buffer capacity onPacket onError)).setResult .none).decoder link =
      some (Decoder.fresh buffer capacity onPacket onError) := s.decoder_setDecoder_same link _
  exact State.feed_counts_run (before := []) bs hfresh rfl hfeed

/-- Settles O47: a packet comes from the one row of the transition table that has one. -/
theorem packetComesOnlyFromATerminator : Obligations.PacketComesOnlyFromATerminator := by
  intro s t i link k seq cmd len payload hx hev
  obtain ⟨b, d, hi, hd, rfl, he, hk⟩ := exec_packet hx hev
  obtain ⟨rfl, hs, hn, hstate, hseq, hcmd, hlen, hpayload⟩ := Decoder.transition_packet he
  exact ⟨d, _, hd, hs, hn, hseq, hcmd, hlen, hk, hpayload, s.decoder_committed_same link _,
    (d.receive_state _).trans hstate, instr_of_terminator hi hd hs hx⟩

/-- Settles O48: in `expect_terminator` the invariant has `count = len` payload bytes stored, and the terminator stores
nothing. -/
theorem deliveredViewWasStored : Obligations.DeliveredViewWasStored := by
  intro s t i link k seq cmd len v hinv hx hev
  obtain ⟨b, d, _, hd, rfl, he, _⟩ := exec_packet hx hev
  obtain ⟨rfl, hs, _, _, _, _, hlen, hv⟩ := Decoder.transition_packet he
  have hcount : d.count = d.len := by
    have h := hinv.decoder hd
    simp only [Decoder.Inv, hs] at h
    exact h.1
  have hmem : (s.committed link (d.receive 0x55#8)).memory = s.memory :=
    ByteEffect.storedIn_of_store_none (by simp [Decoder.receive_store, hs]) _
  split at hv
  · cases hv
  · rename_i hne
    cases hv
    refine ⟨rfl, by bv_omega, by simp [Memory.viewed], fun x hx => ?_⟩
    obtain ⟨n, hn, rfl⟩ := List.mem_map.1 hx
    rw [hmem]
    refine Option.isSome_iff_exists.1 (hinv.payloadIn hd (by simp [Decoder.holdsPayload, hs]) n ?_)
    rw [hcount, hlen]
    exact List.mem_range.1 hn

/-- Settles O49: no byte's effect depends on the error consumer, so that only the delivery of an error differs. -/
theorem absentErrorConsumerDropsOnlyTheEvent : Obligations.AbsentErrorConsumerDropsOnlyTheEvent := by
  intro s t link k d b hd hk hx
  obtain ⟨e, he, hfits, rfl⟩ := exec_receives_eq_next (i := .decByte link b) rfl hx
  rw [hd] at he
  cases he
  have hcons : (d.receive b).decoder.onError = some k := (d.receive_sameConfig b).onError.trans hk
  have hrun : exec (.decByte link b) (s.setDecoder link (d.withOnError none)) =
      .next { (s.committed link (d.receive b)).setDecoder link ((d.receive b).decoder.withOnError none) with
        events := s.events ++ ((d.receive b).decoder.withOnError none).deliveries link (d.transition b).2 } := by
    have hfits' : ((d.withOnError none).receive b).Fits := by
      rw [Decoder.receive_withOnError]
      exact hfits
    rw [exec_decByte_of_fits (s.decoder_setDecoder_same link _) hfits', Decoder.receive_withOnError,
      State.committed_withOnError, Decoder.receive_event]
  refine ⟨_, s.decoder_committed_same link _, hcons, ?_⟩
  by_cases herr : ∃ c, (d.transition b).2 = some (.err c)
  · obtain ⟨c, hc⟩ := herr
    rw [hc, Decoder.withOnError_deliveries_err, List.append_nil] at hrun
    refine .inr ⟨hrun, c, hc, ?_⟩
    simp [State.committed, Decoder.receive_event, hc, Decoder.deliveries, hcons]
  · rw [not_exists] at herr
    rw [Decoder.withOnError_deliveries_of_not_err _ _ _ herr, ← Decoder.receive_event] at hrun
    exact .inl ⟨hrun, herr⟩

/-- Settles O52: each kind of instruction appends to the outputs what its operands and the contexts determine. -/
theorem outputsAreNeverReadBack : Obligations.OutputsAreNeverReadBack := by
  intro i s t hx
  cases exec_completes hx with
  | computes r hexec =>
    refine ⟨[], [], by simp, by simp, by simp, fun es' bs' r' => ?_⟩
    rw [hexec, List.append_nil, List.append_nil]
    rfl
  | wrInit w sink =>
    refine ⟨[], [], by simp, by simp, by simp, fun es' bs' r' => ?_⟩
    rw [exec_wrInit, List.append_nil, List.append_nil]
    rfl
  | wrByte w b x hw =>
    refine ⟨[], _, by simp, by simp, rfl, fun es' bs' r' => ?_⟩
    rw [exec_wrByte (s := { s with events := es', sent := bs', result := r' }) hw, List.append_nil]
    rfl
  | encode sink seq cmd payload hlen =>
    refine ⟨[], _, by simp, by simp, rfl, fun es' bs' r' => ?_⟩
    rw [exec_encode hlen, List.append_nil]
    rfl
  | decNew link buffer capacity onPacket onError hfree =>
    refine ⟨[], [], by simp, by simp, by simp, fun es' bs' r' => ?_⟩
    rw [exec_decNew_free (s := { s with events := es', sent := bs', result := r' }) hfree, List.append_nil,
      List.append_nil]
    rfl
  | receives link b d hbyte _ _ hd hfits =>
    refine ⟨_, [], Decoder.deliveries_length .., rfl, (List.append_nil _).symm, fun es' bs' r' => ?_⟩
    rw [exec_eq_receive_of_next hbyte hx (s' := { s with events := es', sent := bs', result := r' }) rfl,
      List.append_nil]
    exact exec_decByte_of_fits (s := { s with events := es', sent := bs', result := r' }) hd hfits

/-- Settles O53: the one context that a byte writes has a buffer of its own, and its deliveries carry its link. -/
theorem contextsDoNotAlias : Obligations.ContextsDoNotAlias := by
  intro i s t hinv hx
  refine ⟨fun link d hl hd => ⟨(exec_decoder_other hx hl).trans hd, ?_⟩, fun w hw => exec_writer_other hx hw,
    exec_decoders hx⟩
  rcases hr : receivedBy i with _ | ⟨l, b⟩
  · obtain ⟨hev, hmem⟩ := exec_events_memory_of_not_receives hr hx
    rw [hev, hmem]
    exact ⟨fun _ _ => rfl, rfl⟩
  · obtain ⟨e, he, _, rfl⟩ := exec_receives_eq_next hr hx
    have hne : link ≠ l := fun h => hl ((linkOf_of_receivedBy hr).trans (congrArg some h.symm))
    have hbuf : d.buf ≠ (e.receive b).decoder.buf := by
      rw [(e.receive_sameConfig b).buf]
      exact hinv.buf_ne hd he hne
    refine ⟨fun off hoff => ByteEffect.read_storedIn_other _ _ hbuf hoff, ?_⟩
    have hnone : ((e.receive b).decoder.deliveries l (e.receive b).event).filter (fun x => x.link = link) = [] :=
      List.filter_eq_nil_iff.2 fun x hx => by simp [Decoder.deliveries_link _ _ _ x hx, hne.symm]
    rw [State.committed, List.filter_append, hnone, List.append_nil]

/-- Settles O23: `DEC_NEW` by whether another link's context holds the buffer. -/
theorem decNewConstructsOrResetsAContext : Obligations.DecNewConstructsOrResetsAContext := by
  refine fun s link buffer onPacket capacity onError => ⟨fun hfree => ?_, fun htaken => ?_⟩
  · have hnot : s.bufferTaken link buffer = false := by
      rw [Bool.eq_false_iff, Ne, State.bufferTaken_iff]
      rintro ⟨p, hp, hne, heq⟩
      exact hfree p hp hne heq
    exact exec_decNew_free hnot capacity onPacket onError
  · exact exec_decNew_taken (State.bufferTaken_iff.2 htaken) capacity onPacket onError

/-- Settles O31: the byte reaches the handler of `expect_terminator`, which stores nothing. -/
theorem terminatorDeliversThePacket : Obligations.TerminatorDeliversThePacket := by
  intro s link d i hd hs hn hi
  have hreach : d.reachesHandler 0x55#8 = true := by simp [Decoder.reachesHandler, hn]
  have hrun : d.runAfter 0x55#8 = 0#2 := by simp [Decoder.runAfter]
  have heffect : d.receive 0x55#8 =
      { decoder := { d with state := .waitingSignal, sigcnt := 0#2 }, store := none,
        event := some (.pkt d.seq d.cmd
          (if d.len = 0#32 then none else some { buf := d.buf, len := d.len }) d.len) } := by
    rw [Decoder.receive_of_reachesHandler hreach, hrun]
    simp [Decoder.handle, hs, Decoder.onExpectTerminator, TERMINATOR, Decoder.payloadView]
  have hcommit : exec (.decByte link 0x55#8) s = .next (s.committed link (d.receive 0x55#8)) :=
    exec_decByte_of_fits hd (ByteEffect.fits_of_store_none (by rw [heffect]))
  rw [heffect] at hcommit
  rcases hi with rfl | rfl
  · exact hcommit
  · exact hcommit

/-- Settles O41: a row by the state that selects it, a link by its context, a writer by its creation. -/
theorem missingContextOrHandlerIsRefused : Obligations.MissingContextOrHandlerIsRefused := by
  refine ⟨fun s link b d h hd hne => exec_row_not_selected hd hne b, fun s link i hd hl hnew => ?_,
    fun s w b hw => exec_wrByte_not_created hw b⟩
  obtain ⟨b, hb⟩ := receivedBy_of_linkOf hl hnew
  exact exec_receives_not_constructed hb hd

/-- Settles O50: the laws of a table, at the address of a byte and at the name of a context. -/
theorem keptValuesAreReadBack : Obligations.KeptValuesAreReadBack := by
  refine ⟨fun m buf buf' off off' v hoff hoff' => ?_, fun s link link' d => ?_, fun s w w' x => ?_⟩
  · split
    · rename_i h
      rw [h.1, h.2, Memory.read_write_same]
    · rename_i h
      exact Memory.read_write_other m v hoff hoff' h
  · split
    · rename_i h
      rw [h, State.decoder_setDecoder_same]
    · rename_i h
      exact s.decoder_setDecoder_other d h
  · split
    · rename_i h
      rw [h, State.writer_setWriter_same]
    · rename_i h
      exact s.writer_setWriter_other x h

end Sys2Proof.Proofs
end

section
/-!
PROOFS. The memory statements: an instruction is a function of the state without its buffers, up to the one store it
makes (R52, R57, R63, R65), and the store of `expect_data` stands at the count (R53, R181).
-/

namespace Sys2Proof.Machine

/-! ### The one store of an instruction (R52, R53) -/

/-- The buffers after the store of an instruction that runs in `s`, if it makes one. -/
def storedBy (i : Instr) (s : State) (m : Memory) : Memory :=
  match storeOf i s with
  | none => m
  | some (buf, off, v) => m.write buf off v

theorem storedBy_of_none {i : Instr} {s : State} (h : storeOf i s = none) (m : Memory) : storedBy i s m = m := by
  simp [storedBy, h]

theorem storedBy_of_some {i : Instr} {s : State} {buf : Ref} {off : Nat} {v : Byte}
    (h : storeOf i s = some (buf, off, v)) (m : Memory) : storedBy i s m = m.write buf off v := by
  simp [storedBy, h]

/-- R57: an instruction that presents no byte to a decoder has no store. -/
theorem storedBy_of_not_receives {i : Instr} (hi : receivedBy i = none) (s : State) (m : Memory) :
    storedBy i s m = m := storedBy_of_none (by simp [storeOf, hi]) m

theorem storeOf_of_receives {i : Instr} {s : State} {link : Ref} {b : Byte} {d : Decoder}
    (hi : receivedBy i = some (link, b)) (hd : s.decoder link = some d) :
    storeOf i s =
      if d.state = .expectData ∧ d.reachesHandler b = true then some (d.buf, d.count.toNat, b) else none := by
  simp [storeOf, hi, hd]

/-- R53: the store of an instruction is the one that the effect of its byte makes. -/
theorem storedBy_of_receives {i : Instr} {s : State} {link : Ref} {b : Byte} {d : Decoder}
    (hi : receivedBy i = some (link, b)) (hd : s.decoder link = some d) (m : Memory) :
    storedBy i s m = (d.receive b).storedIn m := by
  have hof := storeOf_of_receives hi hd
  have hstore := d.receive_store b
  by_cases h : d.state = .expectData ∧ d.reachesHandler b = true
  · rw [if_pos h] at hof hstore
    rw [storedBy_of_some hof, ByteEffect.storedIn_of_store_some hstore, (d.receive_sameConfig b).buf]
  · rw [if_neg h] at hof hstore
    rw [storedBy_of_none hof, ByteEffect.storedIn_of_store_none hstore]

/-- R50, R53: an offset stored to is a value of `dec.count`, and so in the window of its buffer. -/
theorem storeOf_offset_lt {i : Instr} {s : State} {buf : Ref} {off : Nat} {v : Byte}
    (h : storeOf i s = some (buf, off, v)) : off < 2 ^ 32 := by
  unfold storeOf at h
  split at h
  · cases h
  · split at h
    · cases h
    · split at h
      · cases h
        exact BitVec.isLt _
      · cases h

/-! ### An instruction on other buffer contents (R63, R65) -/

/-- The same state with other buffer contents. -/
def State.withMemory (s : State) (m : Memory) : State :=
  { s with memory := m }

/-- An outcome with its next state, if it has one, changed by `f`: a stop stays the stop that it is. -/
def mapNext (f : State → State) : Host.Outcome State Fault Refusal → Host.Outcome State Fault Refusal
  | .next s => .next (f s)
  | .fault r => .fault r
  | .refused r => .refused r

/-- The effect of a byte makes its store in whatever contents the buffers have, and does the rest without them. -/
theorem State.commit_withMemory (s : State) (link : Ref) (e : ByteEffect) (m : Memory) :
    (s.withMemory m).commit link e = mapNext (·.withMemory (e.storedIn m)) (s.commit link e) := by
  by_cases h : e.Fits
  · rw [State.commit_of_fits _ link h, State.commit_of_fits _ link h]
    rfl
  · rw [State.commit_of_not_fits _ link h, State.commit_of_not_fits _ link h]
    rfl

/-- An instruction that presents a byte to a context finds the same context, and so the same effect, whatever the
buffers contain. -/
theorem exec_receives_withMemory {i : Instr} {link : Ref} {b : Byte} (hi : receivedBy i = some (link, b)) (s : State)
    (m : Memory) : exec i (s.withMemory m) = mapNext (·.withMemory (storedBy i s m)) (exec i s) := by
  cases hd : s.decoder link with
  | none =>
    rw [exec_receives_not_constructed (s := s.withMemory m) hi hd, exec_receives_not_constructed hi hd]
    rfl
  | some d =>
    have hd' : (s.withMemory m).decoder link = some d := hd
    have hreceive : (s.withMemory m).receive link b = mapNext (·.withMemory (storedBy i s m)) (s.receive link b) := by
      rw [State.receive_of_decoder hd', State.receive_of_decoder hd, State.commit_withMemory,
        storedBy_of_receives hi hd]
    rcases exec_receives hi with hr | ⟨k, hr⟩
    · rw [hr, hr, hreceive]
    · rw [hr, hr]
      by_cases hk : d.state = k
      · simp [State.receiveIn, hd, hd', hk, hreceive]
      · simp [State.receiveIn, hd, hd', hk, mapNext]

/-- R63, R65: no instruction reads a buffer. On other buffer contents it stops as before, or completes with the same
effect on everything but the buffers and with the same store in them. -/
theorem exec_withMemory (i : Instr) (s : State) (m : Memory) :
    exec i (s.withMemory m) = mapNext (·.withMemory (storedBy i s m)) (exec i s) := by
  cases instrKind i with
  | computes r hexec _ _ hbyte =>
    rw [hexec, hexec, storedBy_of_not_receives hbyte]
    rfl
  | wrInit w sink => rfl
  | wrByte w b =>
    cases hw : s.writer w with
    | none =>
      rw [exec_wrByte_not_created (s := s.withMemory m) hw, exec_wrByte_not_created hw]
      rfl
    | some x =>
      rw [exec_wrByte (s := s.withMemory m) hw, exec_wrByte hw]
      rfl
  | encode sink seq cmd payload =>
    rcases Nat.lt_or_ge payload.length (2 ^ 32) with hlen | hlen
    · rw [exec_encode hlen, exec_encode hlen]
      rfl
    · rw [exec_encode_too_long hlen, exec_encode_too_long hlen]
      rfl
  | decNew link buffer capacity onPacket onError =>
    cases hb : s.bufferTaken link buffer with
    | true =>
      rw [exec_decNew_taken (s := s.withMemory m) hb, exec_decNew_taken hb]
      rfl
    | false =>
      rw [exec_decNew_free (s := s.withMemory m) hb, exec_decNew_free hb]
      rfl
  | receives link b hbyte => exact exec_receives_withMemory hbyte s m

/-- R57: the buffers after an instruction that completes are those before it with its store. The contents that the
state has are contents like any other, so that this is a case of `exec_withMemory`. -/
theorem exec_memory {i : Instr} {s t : State} (hx : exec i s = .next t) : t.memory = storedBy i s s.memory := by
  have h := exec_withMemory i s s.memory
  rw [show s.withMemory s.memory = s from rfl, hx] at h
  exact congrArg State.memory (Host.Outcome.next.inj h)

/-! ### The handler of `expect_data` (R181) -/

/-- `DEC_BYTE` and the `DECSTATE` row of the context's state both commit the effect of the byte. -/
theorem exec_decByte_or_row {s : State} {link : Ref} {d : Decoder} {b : Byte} {h : DecState} {i : Instr}
    (hd : s.decoder link = some d) (hs : d.state = h) (hi : i = .decByte link b ∨ i = h.row link b) :
    exec i s = s.commit link (d.receive b) := by
  subst hs
  rcases hi with rfl | rfl
  · exact State.receive_of_decoder hd b
  · exact exec_row_of_decoder hd b

/-- R181: what a byte that stage 3 sees in `expect_data` does. -/
theorem Decoder.receive_of_expectData {d : Decoder} {b : Byte} (hs : d.state = .expectData)
    (hr : d.reachesHandler b = true) :
    d.receive b =
      { decoder := { d with sigcnt := d.runAfter b, crc := crcUpdate d.crc b, count := d.count + 1#32,
                            state := if d.count + 1#32 = d.len then .expectCrc else .expectData },
        store := some (d.count, b), event := none } := by
  rw [Decoder.receive_of_reachesHandler hr]
  by_cases hl : d.count + 1#32 = d.len <;>
    simp [Decoder.handle, hs, Decoder.onExpectData, Decoder.foldCrc, hl]

end Sys2Proof.Machine

namespace Sys2Proof.Proofs

open Sys2Proof.Machine

/-- Settles O51: an instruction is the same function of the rest of the state on all buffer contents, up to its one
store; that on the contents the state has is the change of the buffers. -/
theorem bufferContentsNeverMatter : Obligations.BufferContentsNeverMatter := by
  intro i s
  have hother (m : Memory) : exec i { s with memory := m } = mapNext (·.withMemory (storedBy i s m)) (exec i s) :=
    exec_withMemory i s m
  refine ⟨fun t hx => ?_, fun m f hx => by rw [hother, hx]; rfl, fun m r hx => by rw [hother, hx]; rfl⟩
  have hmem := exec_memory hx
  have hany (m : Memory) : exec i { s with memory := m } = .next { t with memory := storedBy i s m } := by
    rw [hother, hx]
    rfl
  refine ⟨fun hnone => ?_, fun buf off v hsome => ?_⟩
  · simp only [storedBy_of_none hnone] at hmem hany
    exact ⟨hmem, hany⟩
  · simp only [storedBy_of_some hsome] at hmem hany
    refine ⟨hmem, fun buf' off' hoff' hne => ?_, hany⟩
    rw [hmem, Memory.read_write_other _ _ (storeOf_offset_lt hsome) hoff' hne]

/-- Settles O38: the effect of the byte is the store at `count`, which its commit makes inside the buffer and faults on
outside it. -/
theorem expectDataStoresAtTheCount : Obligations.ExpectDataStoresAtTheCount := by
  intro s link b d i hd hs hreach hi
  have heffect := Decoder.receive_of_expectData hs hreach
  rw [exec_decByte_or_row hd hs hi, heffect]
  refine ⟨fun hlt => ?_, fun hge => State.commit_of_not_fits s link fun hfits => ?_⟩
  · rw [State.commit_of_fits s link (by rintro _ _ ⟨⟩; exact hlt), State.committed, Decoder.deliveries,
      List.append_nil]
    rfl
  · exact Nat.not_lt.2 hge (hfits _ _ rfl)

end Sys2Proof.Proofs
end

section
/-!
PROOFS. Requests (R83, R84): the operands read back from their bytes, decoding after encoding, what a request that
decodes can be, and the operation codes that are refused.
-/

namespace Sys2Proof.Machine

/-! ### The operands of a request, read back from their bytes (R83) -/

@[simp] theorem ok_bind {α β : Type} (a : α) (f : α → Except DecodeError β) : (Except.ok a >>= f) = f a := rfl

@[simp] theorem pure_eq_ok {α : Type} (a : α) : (pure a : Except DecodeError α) = .ok a := rfl

/-- A parser that goes on after another has an answer when both have. -/
theorem bind_eq_ok {α β : Type} {x : Except DecodeError α} {f : α → Except DecodeError β} {b : β} :
    (x >>= f) = .ok b ↔ ∃ a, x = .ok a ∧ f a = .ok b := by
  cases x with
  | error e => exact ⟨nofun, nofun⟩
  | ok a => simp

@[simp] theorem takeByte_cons (b : Byte) (r : List Byte) : takeByte (b :: r) = .ok (b, r) := rfl

/-- Four bytes least-significant first, put together again, are the operand. -/
theorem operandOfBytes_extract (v : Word) :
    operandOfBytes (v.extractLsb' 0 8) (v.extractLsb' 8 8) (v.extractLsb' 16 8) (v.extractLsb' 24 8) = v :=
  calc operandOfBytes (v.extractLsb' 0 8) (v.extractLsb' 8 8) (v.extractLsb' 16 8) (v.extractLsb' 24 8)
    _ = v.extractLsb' 16 16 ++ v.extractLsb' 8 8 ++ v.extractLsb' 0 8 :=
      congrArg (fun x : BitVec 16 => x ++ v.extractLsb' 8 8 ++ v.extractLsb' 0 8)
        (BitVec.extractLsb'_append_extractLsb'_eq_extractLsb' rfl)
    _ = v.extractLsb' 8 24 ++ v.extractLsb' 0 8 :=
      congrArg (fun x : BitVec 24 => x ++ v.extractLsb' 0 8) (BitVec.extractLsb'_append_extractLsb'_eq_extractLsb' rfl)
    _ = v.extractLsb' 0 32 := BitVec.extractLsb'_append_extractLsb'_eq_extractLsb' rfl
    _ = v := BitVec.extractLsb'_eq_self

@[simp] theorem takeWord_operandBytes (v : Word) (r : List Byte) : takeWord (operandBytes v ++ r) = .ok (v, r) :=
  congrArg (fun w => Except.ok (w, r)) (operandOfBytes_extract v)

@[simp] theorem takeBytes_append (xs r : List Byte) : takeBytes xs.length (xs ++ r) = .ok (xs, r) := by
  simp [takeBytes]

@[simp] theorem takeOptRef_optRefBytes (k : Option Ref) (r : List Byte) :
    takeOptRef (optRefBytes k ++ r) = .ok (k, r) := by
  cases k with
  | none => rfl
  | some k => rfl

/-- R73: bit 7 of a varint byte is its continuation bit. -/
@[simp] theorem msb_varintByte (c : Bool) (g : BitVec 7) : (varintByte c g).msb = c := by
  rw [varintByte, BitVec.msb_append]
  cases c <;> rfl

/-- R73: bits 6:0 of a varint byte are its group. -/
@[simp] theorem extract_varintByte (c : Bool) (g : BitVec 7) : (varintByte c g).extractLsb' 0 7 = g :=
  BitVec.extractLsb'_append_eq_right

@[simp] theorem takeLinkByte_cons_cons (mk : Ref → Byte → Instr) (l : Ref) (b : Byte) (r : List Byte) :
    takeLinkByte mk (l :: b :: r) = .ok (mk l b, r) := rfl

@[simp] theorem takeLink_cons (mk : Ref → Instr) (l : Ref) (r : List Byte) : takeLink mk (l :: r) = .ok (mk l, r) := rfl

@[simp] theorem takeLinkVarint_varintByte (c : Bool) (mk : Ref → BitVec 7 → Instr) (l : Ref) (g : BitVec 7)
    (r : List Byte) : takeLinkVarint c mk (l :: varintByte c g :: r) = .ok (mk l g, r) := by
  simp [takeLinkVarint]

/-! ### Decoding after encoding (R84) -/

/-- A selector with high digit 0 is an `op` code of R84. -/
theorem decode_op (op : BitVec 4) (r : List Byte) : decode ((0#4 ++ op) :: r) = decodeOp op r := by
  have hhigh : (0#4 ++ op : Byte).extractLsb' 4 4 = 0#4 := BitVec.extractLsb'_append_eq_left
  have hlow : (0#4 ++ op : Byte).extractLsb' 0 4 = op := BitVec.extractLsb'_append_eq_right
  rw [decode, hhigh, hlow]
  rfl

/-- A selector with high digit 1 is a row of the formats `DECSTATE` and `BYTE`. -/
theorem decode_row (row : BitVec 4) (r : List Byte) : decode ((1#4 ++ row) :: r) = decodeRow row r := by
  have hhigh : (1#4 ++ row : Byte).extractLsb' 4 4 = 1#4 := BitVec.extractLsb'_append_eq_left
  have hlow : (1#4 ++ row : Byte).extractLsb' 0 4 = row := BitVec.extractLsb'_append_eq_right
  rw [decode, hhigh, hlow]
  rfl

theorem encode_append (i : Instr) (rest : List Byte) :
    encode i ++ rest = i.selector :: (i.operands ++ rest) := rfl

theorem decode_encode {i : Instr} (h : i.wellFormed = true) (rest : List Byte) :
    decode (encode i ++ rest) = .ok (i, rest) := by
  rw [encode_append]
  cases i with
  | crcStart => exact decode_op 0x0 _
  | crcUpdate | crcFinish | varintEnc | varintDecStep | decNew =>
    simp [decode, decodeOp, Instr.selector, Instr.operands]
  | encode sink seq cmd payload =>
    have hlen : payload.length % 4294967296 = payload.length := Nat.mod_eq_of_lt (of_decide_eq_true h)
    simp [decode, decodeOp, Instr.selector, Instr.operands, hlen]
  | byteVarintCont link g => exact (decode_row 0xC _).trans (takeLinkVarint_varintByte ..)
  | byteVarintLast link g => exact (decode_row 0xD _).trans (takeLinkVarint_varintByte ..)
  | _ => rw [Instr.operands, Instr.selector]; rfl

/-! ### What decodes is well-formed (R44) -/

/-- Whatever instruction the parser answers is well-formed. -/
def AnswersWellFormed (p : Except DecodeError (Instr × List Byte)) : Prop :=
  ∀ i rest, p = .ok (i, rest) → i.wellFormed = true

theorem AnswersWellFormed.ok {i : Instr} (h : i.wellFormed = true) (r : List Byte) :
    AnswersWellFormed (.ok (i, r)) := by
  rintro _ _ ⟨⟩
  exact h

theorem AnswersWellFormed.error (e : DecodeError) : AnswersWellFormed (.error e) := nofun

theorem AnswersWellFormed.bind {α : Type} {x : Except DecodeError α} {f : α → Except DecodeError (Instr × List Byte)}
    (h : ∀ a, x = .ok a → AnswersWellFormed (f a)) : AnswersWellFormed (x >>= f) := by
  intro i rest hi
  obtain ⟨a, hx, hf⟩ := bind_eq_ok.1 hi
  exact h a hx i rest hf

theorem answersWellFormed_takeLinkByte {mk : Ref → Byte → Instr} (h : ∀ l b, (mk l b).wellFormed = true)
    (r : List Byte) : AnswersWellFormed (takeLinkByte mk r) :=
  .bind fun _ _ => .bind fun _ _ => .ok (h _ _) _

theorem answersWellFormed_takeLink {mk : Ref → Instr} (h : ∀ l, (mk l).wellFormed = true) (r : List Byte) :
    AnswersWellFormed (takeLink mk r) :=
  .bind fun _ _ => .ok (h _) _

theorem answersWellFormed_takeLinkVarint {mk : Ref → BitVec 7 → Instr} (h : ∀ l g, (mk l g).wellFormed = true)
    (c : Bool) (r : List Byte) : AnswersWellFormed (takeLinkVarint c mk r) := by
  refine .bind fun l _ => .bind fun b _ => ?_
  dsimp only
  split
  · exact .ok (h _ _) _
  · exact .error _

/-- The payload of a request has as many bytes as its 32-bit length says. -/
theorem length_of_takeBytes {n : Nat} {r xs rest : List Byte} (h : takeBytes n r = .ok (xs, rest)) : xs.length = n := by
  unfold takeBytes at h
  split at h
  · cases h
    exact List.length_take_of_le ‹_›
  · cases h

theorem answersWellFormed_decodeOp (op : BitVec 4) (r : List Byte) : AnswersWellFormed (decodeOp op r) := by
  unfold decodeOp
  split
  case h_8 =>
    refine .bind fun _ _ => .bind fun _ _ => .bind fun _ _ => .bind fun n _ => .bind fun payload hpayload => .ok ?_ _
    have hlt : payload.1.length < 2 ^ 32 := length_of_takeBytes hpayload ▸ n.1.isLt
    exact decide_eq_true hlt
  case h_1 => exact .ok rfl _
  case h_2 | h_5 => exact .bind fun _ _ => .bind fun _ _ => .ok rfl _
  case h_3 | h_4 => exact .bind fun _ _ => .ok rfl _
  case h_6 | h_7 | h_10 => exact answersWellFormed_takeLinkByte (fun _ _ => rfl) _
  case h_9 =>
    exact .bind fun _ _ => .bind fun _ _ => .bind fun _ _ => .bind fun _ _ => .bind fun _ _ => .ok rfl _
  case h_11 => exact .error _

theorem answersWellFormed_decodeRow (row : BitVec 4) (r : List Byte) : AnswersWellFormed (decodeRow row r) := by
  unfold decodeRow
  split
  case h_9 | h_10 | h_11 | h_12 => exact answersWellFormed_takeLink (fun _ => rfl) _
  case h_13 | h_14 => exact answersWellFormed_takeLinkVarint (fun _ _ => rfl) _ _
  case h_15 => exact .error _
  all_goals exact answersWellFormed_takeLinkByte (fun _ _ => rfl) _

theorem answersWellFormed_decodeReceived (b : Byte) (r : List Byte) : AnswersWellFormed (decodeReceived b r) := by
  unfold decodeReceived
  repeat' split
  all_goals exact answersWellFormed_takeLink (fun _ => rfl) _

theorem answersWellFormed_decode (bs : List Byte) : AnswersWellFormed (decode bs) := by
  cases bs with
  | nil => exact .error _
  | cons sel r =>
    rw [decode]
    split
    · exact answersWellFormed_decodeOp _ _
    · exact answersWellFormed_decodeRow _ _
    · exact answersWellFormed_decodeReceived _ _

/-! ### Reserved operation codes (R84) -/

theorem decodeOp_reserved {op : BitVec 4} (h : 10 ≤ op.toNat) (r : List Byte) :
    decodeOp op r = .error (.reservedOp op) := by
  unfold decodeOp
  split
  case h_11 => rfl
  all_goals omega

end Sys2Proof.Machine

namespace Sys2Proof.Proofs

open Sys2Proof.Machine

/-- Settles O1: the operands are read back from their bytes row by row; the one operand that can be ill-formed, the
payload of `ENCODE`, is as long as its 32-bit length says. -/
theorem decodeReturnsTheEncodedInstruction : Obligations.DecodeReturnsTheEncodedInstruction :=
  ⟨fun _ rest h => decode_encode h rest, fun bs i rest h => answersWellFormed_decode bs i rest h⟩

/-- Settles O4: the selector is an `op` code, and no operation has it. -/
theorem reservedOperationCodesAreRefused : Obligations.ReservedOperationCodesAreRefused := by
  intro s op rest hs hop
  have hbad : decode s.requests = .error (.reservedOp op) := by rw [hs, decode_op, decodeOp_reserved hop]
  exact step_of_decode_error (by simp [hs]) hbad

/-- Settles O3: the five requests with operands are the encodings of their instructions; the bare table words are closed
facts. -/
theorem wordsOfTheTableDecode : Obligations.WordsOfTheTableDecode :=
  ⟨decode_encode (i := .crcUpdate 0x12345678#32 0x9A#8) rfl [], decode_encode (i := .varintEnc 16384#32) rfl [],
    decode_encode (i := .wrByte 0x02#8 0xAA#8) rfl [], decode_encode (i := .decByte 0x01#8 0x55#8) rfl [],
    decode_encode (i := .stExpectData 0x01#8 0x68#8) rfl [], rfl, rfl, rfl, rfl⟩

end Sys2Proof.Proofs
end

section
/-!
PROOFS. The varint codec (R73 to R75, R120, R123): the length of a value by its range, the bytes of a value, and the
decoding of any number of bytes as a number in base 128.
-/

namespace Sys2Proof.Machine

/-! ### The number of groups of a value (R74, R120) -/

/-- The loop test of R120: no bit at or above `k` is set. -/
theorem ushiftRight_eq_zero_iff (v : Word) (k : Nat) : v >>> k = 0#32 ↔ v.toNat < 2 ^ k := by
  rw [← BitVec.toNat_inj, BitVec.toNat_ushiftRight, Nat.shiftRight_eq_div_pow]
  exact Nat.div_eq_zero_iff_lt (Nat.two_pow_pos k)

/-- R74: the length of a value by its range. -/
theorem varintLength_eq (v : Word) :
    varintLength v =
      if v.toNat ≤ 127 then 1 else if v.toNat ≤ 16383 then 2 else if v.toNat ≤ 2097151 then 3
      else if v.toNat ≤ 268435455 then 4 else 5 := by
  simp only [varintLength, ushiftRight_eq_zero_iff, ← Nat.lt_succ_iff]
  rfl

/-- R120: the length is the least number of groups, at least 1 and at most 5, that hold the value. -/
theorem varintLength_spec (v : Word) :
    ∃ k ≤ 4, varintLength v = k + 1 ∧ v.toNat < 128 ^ (k + 1) ∧ (k ≠ 0 → 128 ^ k ≤ v.toNat) := by
  have hv := v.isLt
  rw [varintLength_eq]
  split_ifs
  · exact ⟨0, by omega⟩
  · exact ⟨1, by omega⟩
  · exact ⟨2, by omega⟩
  · exact ⟨3, by omega⟩
  · exact ⟨4, by omega⟩

/-! ### The groups of a value (R73, R120) -/

theorem varintGroup_eq (v : Word) (j : Nat) : varintGroup v j = v.extractLsb' (7 * j) 7 := by
  refine BitVec.eq_of_toNat_eq ?_
  simp [varintGroup]

theorem toNat_varintGroup (v : Word) (j : Nat) : (varintGroup v j).toNat = v.toNat / 128 ^ j % 128 := by
  rw [varintGroup_eq, BitVec.extractLsb'_toNat, Nat.shiftRight_eq_div_pow, Nat.pow_mul]

/-- R74: the fifth group of a value has four bits. -/
theorem varintGroup_four (v : Word) : varintGroup v 4 = (v.extractLsb' 28 4).setWidth 7 := by
  refine BitVec.eq_of_toNat_eq ?_
  have hv := v.isLt
  rw [toNat_varintGroup, BitVec.toNat_setWidth, BitVec.extractLsb'_toNat, Nat.shiftRight_eq_div_pow]
  omega

/-- R120: the groups above the lowest are continuation bytes, the lowest is the last byte. -/
theorem varintGroups_succ (v : Word) (k : Nat) :
    ∃ init : List Byte, varintGroups v (k + 1) = init ++ [varintByte false (varintGroup v 0)] ∧ init.length = k ∧
      ∀ c ∈ init, c.msb = true := by
  induction k with
  | zero => exact ⟨[], rfl, rfl, nofun⟩
  | succ k ih =>
    obtain ⟨init, heq, hlen, hmsb⟩ := ih
    refine ⟨varintByte true (varintGroup v (k + 1)) :: init, ?_, congrArg (· + 1) hlen, ?_⟩
    · rw [varintGroups, heq]
      rfl
    · exact List.forall_mem_cons.2 ⟨msb_varintByte .., hmsb⟩

/-- R120 corner case c: the first byte is not `80`, because the topmost of the least number of groups is not 0. -/
theorem varintBytes_head_ne (v : Word) : (varintBytes v).head? ≠ some 0x80#8 := by
  obtain ⟨k, _, hlen, hlt, hge⟩ := varintLength_spec v
  rw [varintBytes, hlen, varintGroups]
  intro h
  have hbyte : varintByte (k ≠ 0) (varintGroup v k) = 0x80#8 := Option.some.inj h
  have hk : k ≠ 0 := of_decide_eq_true ((msb_varintByte ..).symm.trans (congrArg BitVec.msb hbyte))
  have hgroup : varintGroup v k = 0#7 := (extract_varintByte ..).symm.trans (congrArg (BitVec.extractLsb' 0 7) hbyte)
  have hpos : 0 < v.toNat / 128 ^ k := Nat.div_pos (hge hk) (by positivity)
  have hsmall : v.toNat / 128 ^ k < 128 := Nat.div_lt_of_lt_mul (by rwa [← Nat.pow_succ])
  have hzero : v.toNat / 128 ^ k % 128 = 0 := by rw [← toNat_varintGroup, hgroup]; rfl
  omega

/-! ### Decoding (R121, R123) -/

/-- `acc'` of R121 as a number: one more digit in base 128, in 32 bits. -/
theorem varintAccumulate_ofNat (a : Nat) (b : Byte) :
    varintAccumulate (BitVec.ofNat 32 a) b = BitVec.ofNat 32 (a * 128 + b.toNat % 128) := by
  have hshift : BitVec.ofNat 32 a <<< 7 = BitVec.ofNat 32 (a <<< 7) := by
    refine BitVec.eq_of_toNat_eq ?_
    simp [Nat.shiftLeft_eq]
  have hdigit : (b.extractLsb' 0 7).setWidth 32 = BitVec.ofNat 32 (b.toNat % 128) := by
    refine BitVec.eq_of_toNat_eq ?_
    simp
  have hor : a <<< 7 + b.toNat % 128 = a <<< 7 ||| b.toNat % 128 :=
    Nat.shiftLeft_add_eq_or_of_lt (Nat.mod_lt _ (by decide)) a
  rw [varintAccumulate, hshift, hdigit, ← BitVec.ofNat_or, ← hor, Nat.shiftLeft_eq]

/-- R123: continuation bytes are digits in base 128, and the value is complete on the first byte that is none. -/
theorem varintDecode_ofNat (cs : List Byte) (b : Byte) (rest : List Byte) (hcs : ∀ c ∈ cs, c.msb = true)
    (hb : b.msb = false) (a : Nat) :
    varintDecode (BitVec.ofNat 32 a) (cs ++ b :: rest) =
      (BitVec.ofNat 32 ((cs ++ [b]).foldl (fun a c => a * 128 + c.toNat % 128) a), true, rest) := by
  induction cs generalizing a with
  | nil => simp [varintDecode, varintDone, hb, varintAccumulate_ofNat]
  | cons c cs ih =>
    obtain ⟨hc, hcs⟩ := List.forall_mem_cons.1 hcs
    simp [varintDecode, varintDone, hc, varintAccumulate_ofNat, ih hcs]

theorem varintDecode_continuation (cs : List Byte) (hcs : ∀ c ∈ cs, c.msb = true) (acc : Word) :
    (varintDecode acc cs).2 = (false, []) := by
  induction cs generalizing acc with
  | nil => rfl
  | cons c cs ih =>
    obtain ⟨hc, hcs⟩ := List.forall_mem_cons.1 hcs
    simp [varintDecode, varintDone, hc, ih hcs]

end Sys2Proof.Machine

namespace Sys2Proof.Proofs

open Sys2Proof.Machine

/-- Settles O12: the length by the range of the value, and each group as a bit field. -/
theorem varintEncodingFollowsTheRangeTable : Obligations.VarintEncodingFollowsTheRangeTable := by
  intro s v
  show Host.Outcome.next { s with result := .bytes (varintBytes v) } = _
  rw [varintBytes, varintLength_eq]
  split_ifs
  all_goals
    simp only [varintGroups, varintGroup_four]
    simp only [varintGroup_eq]
    rfl

/-- Settles O15: the accumulator is the value so far in 32 bits. -/
theorem overlongVarintIsTruncated : Obligations.OverlongVarintIsTruncated :=
  ⟨fun cs b rest hcs hb => varintDecode_ofNat cs b rest hcs hb 0,
    fun cs acc hcs => varintDecode_continuation cs hcs acc⟩

/-- Settles O16: the bytes of the least number of groups; `AA` has bit 7 set and so is no last byte. -/
theorem onlyTheLastVarintByteHasBitSevenClear : Obligations.OnlyTheLastVarintByteHasBitSevenClear := by
  intro v
  obtain ⟨k, hk, hlen, _⟩ := varintLength_spec v
  obtain ⟨init, heq, rfl, hmsb⟩ := varintGroups_succ v k
  have hlast : (varintByte false (varintGroup v 0)).msb = false := msb_varintByte ..
  refine ⟨init, _, ?_, hk, hmsb, hlast, fun h => ?_, varintBytes_head_ne v⟩
  · rw [varintBytes, hlen, heq]
  · rw [h] at hlast
    cases hlast

end Sys2Proof.Proofs
end

section
/-!
PROOFS. The stuffed form of a byte sequence (R77, R143), the length of a frame (R72), and which handler or row receives
a byte (R78, R84, R171).
-/

namespace Sys2Proof.Machine

/-! ### The stuffed form byte by byte (R77) -/

@[simp] theorem stuffed_signal_pair (rest : List Byte) :
    stuffed (SIGNAL :: SIGNAL :: rest) = SIGNAL :: SIGNAL :: STUFF :: stuffed rest := by
  rw [stuffed, if_pos ⟨rfl, rfl⟩]

theorem stuffed_of_not_pair {a b : Byte} (h : ¬ (a = SIGNAL ∧ b = SIGNAL)) (rest : List Byte) :
    stuffed (a :: b :: rest) = a :: stuffed (b :: rest) := by
  rw [stuffed, if_neg h]

/-- A byte that is not `SIGNAL` begins no pair. -/
theorem stuffed_of_ne_signal {a : Byte} (h : a ≠ SIGNAL) (rest : List Byte) :
    stuffed (a :: rest) = a :: stuffed rest := by
  cases rest with
  | nil => rfl
  | cons b rest => exact stuffed_of_not_pair (fun hpair => h hpair.1) rest

/-- Stuffing inserts after bytes, never before them. -/
theorem stuffed_cons (a : Byte) (rest : List Byte) : ∃ tail, stuffed (a :: rest) = a :: tail := by
  cases rest with
  | nil => exact ⟨[], rfl⟩
  | cons b rest =>
    rw [stuffed]
    split
    · exact ⟨_, rfl⟩
    · exact ⟨_, rfl⟩

/-! ### Removing the inserted bytes (R143 a) -/

theorem destuffed_signal_pair (c : Byte) (rest : List Byte) :
    destuffed (SIGNAL :: SIGNAL :: c :: rest) = SIGNAL :: SIGNAL :: destuffed rest := by
  rw [destuffed, if_pos ⟨rfl, rfl⟩]

theorem destuffed_of_not_pair {a b : Byte} (h : ¬ (a = SIGNAL ∧ b = SIGNAL)) (rest : List Byte) :
    destuffed (a :: b :: rest) = a :: destuffed (b :: rest) := by
  cases rest with
  | nil => rfl
  | cons c rest => rw [destuffed, if_neg h]

theorem destuffed_stuffed (bs : List Byte) : destuffed (stuffed bs) = bs := by
  induction bs using stuffed.induct with
  | case1 => rfl
  | case2 a => rfl
  | case3 a b rest hpair ih =>
    obtain ⟨rfl, rfl⟩ := hpair
    rw [stuffed_signal_pair, destuffed_signal_pair, ih]
  | case4 a b rest hpair ih =>
    obtain ⟨tail, htail⟩ := stuffed_cons b rest
    rw [htail] at ih
    rw [stuffed_of_not_pair hpair, htail, destuffed_of_not_pair hpair, ih]

/-! ### Every pair of signal bytes is guarded (R143 b) -/

/-- Two consecutive signal bytes are always followed by `00`. -/
def GuardsPairs (bs : List Byte) : Prop :=
  ∀ before after : List Byte, bs = before ++ [SIGNAL, SIGNAL] ++ after → after.head? = some STUFF

/-- A byte put in front makes at most one new pair, at the front. -/
theorem GuardsPairs.cons {a : Byte} {bs : List Byte} (h : GuardsPairs bs)
    (hfront : ∀ after, a = SIGNAL → bs = SIGNAL :: after → after.head? = some STUFF) : GuardsPairs (a :: bs) := by
  intro before after heq
  cases before with
  | nil =>
    obtain ⟨ha, hbs⟩ := List.cons.inj heq
    exact hfront after ha hbs
  | cons x before => exact h before after (List.cons.inj heq).2

theorem guardsPairs_stuffed (bs : List Byte) : GuardsPairs (stuffed bs) := by
  have hnil : GuardsPairs [] := fun before after h => by simp at h
  induction bs using stuffed.induct with
  | case1 => exact hnil
  | case2 a => exact hnil.cons fun _ _ h => nomatch h
  | case3 a b rest hpair ih =>
    obtain ⟨rfl, rfl⟩ := hpair
    rw [stuffed_signal_pair]
    have hstuff : GuardsPairs (STUFF :: stuffed rest) := ih.cons fun _ h => absurd h (by decide)
    have hsecond : GuardsPairs (SIGNAL :: STUFF :: stuffed rest) :=
      hstuff.cons fun _ _ h => absurd (List.cons.inj h).1 (by decide)
    exact hsecond.cons fun after _ h => by rw [← (List.cons.inj h).2]; rfl
  | case4 a b rest hpair ih =>
    rw [stuffed_of_not_pair hpair]
    obtain ⟨tail, htail⟩ := stuffed_cons b rest
    refine ih.cons fun after ha h => absurd ⟨ha, ?_⟩ hpair
    rw [htail] at h
    exact (List.cons.inj h).1

/-! ### Lengths (R72) -/

/-- One byte is inserted for a pair, and pairs do not overlap. -/
theorem length_stuffed (bs : List Byte) : ∃ k, (stuffed bs).length = bs.length + k ∧ 2 * k ≤ bs.length := by
  induction bs using stuffed.induct with
  | case1 => exact ⟨0, rfl, Nat.le_refl _⟩
  | case2 a => exact ⟨0, rfl, Nat.zero_le _⟩
  | case3 a b rest hpair ih =>
    obtain ⟨rfl, rfl⟩ := hpair
    obtain ⟨k, hlen, hk⟩ := ih
    refine ⟨k + 1, ?_, ?_⟩ <;> simp only [stuffed_signal_pair, List.length_cons] <;> omega
  | case4 a b rest hpair ih =>
    obtain ⟨k, hlen, hk⟩ := ih
    rw [stuffed_of_not_pair hpair]
    exact ⟨k, by simp only [List.length_cons] at hlen ⊢; omega, Nat.le_succ_of_le hk⟩

/-- What is written after the separator (R70): header and payload. -/
theorem frameBody_eq_cons (seq cmd : Word) (payload : List Byte) :
    frameBody seq cmd payload = SEPARATOR ::
      (varintBytes seq ++ varintBytes cmd ++ varintBytes (BitVec.ofNat 32 payload.length) ++ payload) := by
  simp [frameBody]

@[simp] theorem length_crcField (seq cmd : Word) (payload : List Byte) : (crcField seq cmd payload).length = 4 := rfl

theorem length_frame (seq cmd : Word) (payload : List Byte) :
    (frame seq cmd payload).length = 3 + (coveredRegion seq cmd payload).length + 4 + 1 := by
  simp only [frame, List.length_append, length_crcField]
  rfl

end Sys2Proof.Machine

namespace Sys2Proof.Proofs

open Sys2Proof.Machine

/-- Settles O20: pair by pair, as the stuffed form is built. -/
theorem stuffingIsReversibleAndGuardsEveryPair : Obligations.StuffingIsReversibleAndGuardsEveryPair :=
  ⟨destuffed_stuffed, guardsPairs_stuffed⟩

/-- Settles O22: the separator is not `SIGNAL`, so that the pairs stand in the bytes after it. -/
theorem frameLengthFollowsItsFields : Obligations.FrameLengthFollowsItsFields := by
  intro seq cmd payload _
  obtain ⟨k, hlen, hk⟩ := length_stuffed
    (varintBytes seq ++ varintBytes cmd ++ varintBytes (BitVec.ofNat 32 payload.length) ++ payload)
  have hregion : (coveredRegion seq cmd payload).length =
      1 + (varintBytes seq).length + (varintBytes cmd).length +
        (varintBytes (BitVec.ofNat 32 payload.length)).length + payload.length + k := by
    rw [coveredRegion, frameBody_eq_cons, stuffed_of_ne_signal (by decide), List.length_cons, hlen]
    simp only [List.length_append]
    omega
  refine ⟨k, length_frame seq cmd payload, hregion, ?_⟩
  simp only [List.length_append] at hk
  omega

/-- Settles O28: `DEC_BYTE` and the selected row commit the effect of the byte, which is the handler's when stage 3 sees
the byte. -/
theorem otherBytesReachTheSelectedHandler : Obligations.OtherBytesReachTheSelectedHandler := by
  intro s link d b hd
  have hbyte : exec (.decByte link b) s = s.commit link (d.receive b) := exec_decByte_or_row hd rfl (.inl rfl)
  refine ⟨(exec_row_of_decoder hd b).trans hbyte.symm, fun hreach => ?_⟩
  rw [hbyte, Decoder.receive_of_reachesHandler hreach]
  rfl

/-- Settles O29: the meaning of each row is the reception of its pattern, which R73 composes for the two varint rows. -/
theorem byteRowsReceiveTheirPattern : Obligations.ByteRowsReceiveTheirPattern :=
  fun _ _ _ => ⟨rfl, rfl, rfl, rfl, rfl, rfl⟩

end Sys2Proof.Proofs
end

section
/-!
PROOFS. The CRC-32 engine (R100 to R105): one shift step is linear, one-to-one and fixes only 0, hence so do eight of
them; the table entries are eight steps of their index (R103), hence the update is eight steps of the accumulator with
the byte folded in (R104).
-/

namespace Sys2Proof.Machine

/-! ### One shift step (R103, R104) -/

theorem crcShift_of_even {c : Word} (h : c.getLsbD 0 = false) : crcShift c = c >>> 1 := by
  rw [crcShift, h]
  rfl

theorem crcShift_of_odd {c : Word} (h : c.getLsbD 0 = true) : crcShift c = (c >>> 1) ^^^ CRC_POLY_REFLECTED := by
  rw [crcShift, h]
  rfl

/-- The step is linear over XOR. -/
theorem crcShift_xor : Function.Semiconj₂ crcShift (· ^^^ ·) (· ^^^ ·) := by
  intro c d
  have hxor : (c ^^^ d).getLsbD 0 = (c.getLsbD 0 ^^ d.getLsbD 0) := BitVec.getLsbD_xor
  cases hc : c.getLsbD 0 <;> cases hd : d.getLsbD 0 <;> rw [hc, hd] at hxor
  case false.false =>
    rw [crcShift_of_even hxor, crcShift_of_even hc, crcShift_of_even hd, BitVec.ushiftRight_xor_distrib]
  case false.true =>
    rw [crcShift_of_odd hxor, crcShift_of_even hc, crcShift_of_odd hd, BitVec.ushiftRight_xor_distrib, BitVec.xor_assoc]
  case true.false =>
    rw [crcShift_of_odd hxor, crcShift_of_odd hc, crcShift_of_even hd, BitVec.ushiftRight_xor_distrib]
    ac_rfl
  case true.true =>
    rw [crcShift_of_even hxor, crcShift_of_odd hc, crcShift_of_odd hd, BitVec.ushiftRight_xor_distrib]
    calc (c >>> 1) ^^^ (d >>> 1)
        _ = (c >>> 1) ^^^ (d >>> 1) ^^^ (CRC_POLY_REFLECTED ^^^ CRC_POLY_REFLECTED) := by simp
        _ = ((c >>> 1) ^^^ CRC_POLY_REFLECTED) ^^^ ((d >>> 1) ^^^ CRC_POLY_REFLECTED) := by ac_rfl

/-- The top bit of the polynomial, which no shifted word has, tells whether the low bit was 1. -/
theorem eq_zero_of_crcShift_eq_zero {c : Word} (h : crcShift c = 0#32) : c = 0#32 := by
  cases hlow : c.getLsbD 0 with
  | false =>
    rw [crcShift_of_even hlow, ushiftRight_eq_zero_iff] at h
    have heven : c.toNat % 2 = 0 := by simpa [BitVec.getLsbD] using hlow
    exact BitVec.eq_of_toNat_eq (show c.toNat = 0 by omega)
  | true =>
    rw [crcShift_of_odd hlow] at h
    have htop := congrArg (fun v : Word => v.getLsbD 31) h
    simp [CRC_POLY_REFLECTED] at htop

theorem crcShift_injective : Function.Injective crcShift := by
  intro c d h
  have hxor : crcShift (c ^^^ d) = 0#32 := by rw [crcShift_xor.eq, h, BitVec.xor_self]
  exact BitVec.xor_eq_zero_iff.mp (eq_zero_of_crcShift_eq_zero hxor)

/-- A word that is its own shift by `k` up to `p` is its own shift by `2 * k` up to a word that `p` determines. -/
theorem ushiftRight_double_xor {c p : Word} {k : Nat} (h : (c >>> k) ^^^ p = c) :
    (c >>> (k + k)) ^^^ ((p >>> k) ^^^ p) = c := by
  rw [BitVec.shiftRight_add, ← BitVec.xor_assoc, ← BitVec.ushiftRight_xor_distrib, h, h]

/-- Five doublings leave one word that an odd step could fix, and that word is even: the polynomial has an even number
of bits. -/
theorem eq_zero_of_crcShift_eq_self {c : Word} (h : crcShift c = c) : c = 0#32 := by
  cases hlow : c.getLsbD 0 with
  | false =>
    rw [crcShift_of_even hlow] at h
    bv_omega
  | true =>
    rw [crcShift_of_odd hlow] at h
    have hfix := ushiftRight_double_xor <| ushiftRight_double_xor <| ushiftRight_double_xor <|
      ushiftRight_double_xor <| ushiftRight_double_xor h
    rw [BitVec.ushiftRight_eq_zero (by decide : 32 ≤ 32)] at hfix
    rw [← hfix] at hlow
    exact absurd hlow (by decide)

/-- A linear map that fixes only 0 does so when taken twice: it fixes `c ^^^ f c` when taken twice it fixes `c`. -/
theorem eq_zero_of_twice_eq_self {f : Word → Word} (hlin : Function.Semiconj₂ f (· ^^^ ·) (· ^^^ ·))
    (hfix : ∀ c, f c = c → c = 0#32) (c : Word) (h : f (f c) = c) : c = 0#32 := by
  have hdiff : f (c ^^^ f c) = c ^^^ f c := by rw [hlin.eq, h, BitVec.xor_comm]
  exact hfix c (BitVec.xor_eq_zero_iff.mp (hfix _ hdiff)).symm

/-! ### Eight shift steps -/

theorem crcShift_iterate_of_low_zero (n : Nat) :
    ∀ c : Word, (∀ i < n, c.getLsbD i = false) → crcShift^[n] c = c >>> n := by
  induction n with
  | zero => exact fun c _ => (BitVec.ushiftRight_zero c).symm
  | succ n ih =>
    intro c hlow
    rw [Function.iterate_succ_apply, crcShift_of_even (hlow 0 n.succ_pos), ih, ← BitVec.shiftRight_add, Nat.add_comm]
    intro i hi
    rw [BitVec.getLsbD_ushiftRight]
    exact hlow _ (by omega)

theorem crcShift_iterate_eq_self_iff (c : Word) : crcShift^[8] c = c ↔ c = 0#32 := by
  have htwo : ∀ c, crcShift^[2] c = c → c = 0#32 :=
    eq_zero_of_twice_eq_self crcShift_xor fun _ => eq_zero_of_crcShift_eq_self
  have hfour : ∀ c, crcShift^[4] c = c → c = 0#32 := eq_zero_of_twice_eq_self (crcShift_xor.iterate 2) htwo
  refine ⟨eq_zero_of_twice_eq_self (crcShift_xor.iterate 4) hfour c, ?_⟩
  rintro rfl
  decide

/-! ### The table and the update (R101, R103, R104) -/

theorem length_crcTable : crcTable.length = 256 := by
  simp only [crcTable, List.length_append]
  rfl

set_option maxRecDepth 4096 in
/-- R103, over the 256 entries of the constant table. -/
theorem crcEntry_eq_shifts : ∀ i : Byte, crcEntry i = crcShift^[8] (i.setWidth 32) := by
  decide

/-- R104: the low byte goes through the table, the other bytes are shifted down. -/
theorem crcUpdate_eq_shifts (crc : Word) (b : Byte) : crcUpdate crc b = crcShift^[8] (crc ^^^ b.setWidth 32) := by
  have hsplit : crc ^^^ b.setWidth 32 =
      (crc.extractLsb' 0 8 ^^^ b).setWidth 32 ^^^ ((crc >>> 8) <<< 8) := by
    ext i hi
    by_cases hbyte : i < 8
    · simp [hbyte, hi]
    · have hcancel : 8 + (i - 8) = i := by omega
      simp [hbyte, hi, hcancel, Bool.xor_comm]
  have hhigh : crcShift^[8] ((crc >>> 8) <<< 8) = crc >>> 8 := by
    rw [crcShift_iterate_of_low_zero 8 _ fun i hi => by simp [hi]]
    ext i hi
    simpa using fun hbit => BitVec.lt_of_getLsbD hbit
  rw [hsplit, (crcShift_xor.iterate 8).eq, hhigh, ← crcEntry_eq_shifts]
  rfl

theorem crcUpdate_crc_injective (b : Byte) : Function.Injective fun crc => crcUpdate crc b := by
  intro c d h
  simp only [crcUpdate_eq_shifts] at h
  exact (BitVec.xor_left_inj _).mp (crcShift_injective.iterate 8 h)

theorem crcUpdate_byte_injective (crc : Word) : Function.Injective (crcUpdate crc) := by
  intro x y h
  simp only [crcUpdate_eq_shifts] at h
  have hword := (BitVec.xor_right_inj _).mp (crcShift_injective.iterate 8 h)
  simpa using congrArg (BitVec.setWidth 8) hword

/-! ### Byte sequences (R105) -/

theorem crcFold_injective (bs : List Byte) : Function.Injective fun crc => crcFold crc bs := by
  induction bs with
  | nil => exact Function.injective_id
  | cons b rest ih => exact ih.comp (crcUpdate_crc_injective b)

theorem crcFold_append (crc : Word) (xs ys : List Byte) : crcFold crc (xs ++ ys) = crcFold (crcFold crc xs) ys :=
  List.foldl_append

theorem crcFinish_injective : Function.Injective crcFinish :=
  fun _ _ h => (BitVec.xor_left_inj _).mp h

end Sys2Proof.Machine

namespace Sys2Proof.Proofs

open Sys2Proof.Machine

/-- Settles O9: the table holds what eight steps make of the low byte, and the step is linear. -/
theorem crcUpdateEqualsEightShiftSteps : Obligations.CrcUpdateEqualsEightShiftSteps :=
  crcUpdate_eq_shifts

/-- Settles O10: a zero byte is eight shift steps of the accumulator itself. -/
theorem zeroByteFixesOnlyTheZeroAccumulator : Obligations.ZeroByteFixesOnlyTheZeroAccumulator := by
  intro crc
  rw [crcUpdate_eq_shifts, BitVec.setWidth_zero, BitVec.xor_zero, crcShift_iterate_eq_self_iff]

/-- Settles O11: the changed byte changes the accumulator, and no step after it makes two accumulators equal. -/
theorem oneChangedByteChangesTheCrc : Obligations.OneChangedByteChangesTheCrc := by
  intro before after x y hne heq
  have hfold := crcFinish_injective heq
  simp only [crcFold_append] at hfold
  exact hne (crcUpdate_byte_injective _ (crcFold_injective after hfold))

/-- Settles O5, by the definition of the fresh accumulator. -/
theorem crcStartYieldsTheFreshAccumulator : Obligations.CrcStartYieldsTheFreshAccumulator :=
  fun _ => rfl

/-- Settles O6, by the definition of the update. -/
theorem crcUpdateIsTheTableFormula : Obligations.CrcUpdateIsTheTableFormula :=
  fun _ _ _ => rfl

/-- Settles O7, by the definition of the final value. -/
theorem crcFinishXorsTheAccumulator : Obligations.CrcFinishXorsTheAccumulator :=
  fun _ _ => rfl

/-- Settles O8, entry by entry. -/
theorem crcTableIsBuiltFromThePolynomial : Obligations.CrcTableIsBuiltFromThePolynomial :=
  ⟨length_crcTable, crcEntry_eq_shifts⟩

end Sys2Proof.Proofs
end

section
/-!
PROOFS. The round trip of the varint codec (R122): the bytes of a value are its digits in base 128, which the decoding
of R123 puts together again; and the decoding step as an instruction (R121).
-/

namespace Sys2Proof.Machine

/-! ### The bytes of a value as digits in base 128 (R73, R120) -/

/-- R73: what a varint byte adds to the value is its group, whatever its continuation bit. -/
theorem toNat_varintByte_mod (c : Bool) (g : BitVec 7) : (varintByte c g).toNat % 128 = g.toNat := by
  have hgroup := congrArg BitVec.toNat (extract_varintByte c g)
  rwa [BitVec.extractLsb'_toNat, Nat.shiftRight_zero] at hgroup

/-- R120, R125: the lowest `k` groups shift their `7 * k` bits of the value in under what was there. -/
theorem foldl_varintGroups (v : Word) (k a : Nat) :
    (varintGroups v k).foldl (fun a c => a * 128 + c.toNat % 128) a = a * 128 ^ k + v.toNat % 128 ^ k := by
  induction k generalizing a with
  | zero => simp [varintGroups, Nat.mod_one]
  | succ k ih =>
    rw [varintGroups, List.foldl_cons, ih, toNat_varintByte_mod, toNat_varintGroup, Nat.pow_succ, Nat.mod_mul]
    ring

/-! ### Decoding after encoding (R122) -/

/-- The lowest groups of a value, one at least, decode to the value when they hold all of it. -/
theorem varintDecode_varintGroups {v : Word} {k : Nat} (h : v.toNat < 128 ^ (k + 1)) (rest : List Byte) :
    varintDecode 0#32 (varintGroups v (k + 1) ++ rest) = (v, true, rest) := by
  obtain ⟨init, heq, _, hmsb⟩ := varintGroups_succ v k
  have hdecode := varintDecode_ofNat init (varintByte false (varintGroup v 0)) rest hmsb (msb_varintByte ..) 0
  have hvalue := foldl_varintGroups v (k + 1) 0
  rw [Nat.zero_mul, Nat.zero_add, Nat.mod_eq_of_lt h, heq] at hvalue
  rw [hvalue, BitVec.ofNat_toNat, BitVec.setWidth_eq] at hdecode
  rw [heq, List.append_assoc]
  exact hdecode

theorem varintDecode_varintBytes (v : Word) (rest : List Byte) :
    varintDecode 0#32 (varintBytes v ++ rest) = (v, true, rest) := by
  obtain ⟨k, _, hlen, hlt, _⟩ := varintLength_spec v
  rw [varintBytes, hlen]
  exact varintDecode_varintGroups hlt rest

/-! ### The decoding step (R121) -/

/-- R121: `done` is that `b[7]` is 0. -/
theorem varintDone_eq (b : Byte) : varintDone b = !b.getLsbD 7 := by
  rw [varintDone, BitVec.msb_eq_getLsbD_last]

theorem exec_varintDecStep (acc : Word) (b : Byte) (s : State) :
    exec (.varintDecStep acc b) s = .next (s.setResult (.varint (varintAccumulate acc b) (varintDone b))) := rfl

end Sys2Proof.Machine

namespace Sys2Proof.Proofs

open Sys2Proof.Machine

/-- Settles O14: the encoder sends the least number of groups that hold the value, and these decode to it. -/
theorem varintDecodingInvertsEncoding : Obligations.VarintDecodingInvertsEncoding :=
  varintDecode_varintBytes

/-- Settles O13: the answer is the model's accumulator and completion bit, and bit 7 is the top bit of the byte. -/
theorem varintStepFoldsOneByte : Obligations.VarintStepFoldsOneByte := by
  intro s acc b
  rw [exec_varintDecStep, varintDone_eq]
  rfl

end Sys2Proof.Proofs
end

section
/-!
PROOFS. The stuffing writer as an instruction (R140, R141), and what a fresh writer has sent and holds after any bytes
written in a row (R142, R143).
-/

namespace Sys2Proof.Machine

/-! ### One written byte (R141) -/

/-- R141: a signal byte that is not the second of a pair is sent alone and counted. -/
theorem Writer.push_unpaired_signal {x : Writer} (h : x.sigcnt ≠ 1#2) :
    x.push SIGNAL = ({ x with crc := crcUpdate x.crc SIGNAL, sigcnt := x.sigcnt + 1#2 }, [SIGNAL]) := by
  have hcount : x.sigcnt + 1#2 ≠ 2#2 := by bv_omega
  simp [Writer.push, hcount]

/-- A writer stays bound to its sink (R23, R43). -/
@[simp] theorem Writer.push_sink (x : Writer) (b : Byte) : (x.push b).1.sink = x.sink := by
  simp only [Writer.push]
  repeat' split
  all_goals rfl

/-- R142 for one byte more: the counter is the length of the trailing signal run modulo 2. -/
theorem Writer.push_counts_run {x : Writer} {before : List Byte}
    (h : x.sigcnt = BitVec.ofNat 2 (trailingSignals before % 2)) (b : Byte) :
    (x.push b).1.sigcnt = BitVec.ofNat 2 (trailingSignals (before ++ [b]) % 2) := by
  rw [trailingSignals_concat]
  by_cases hb : b = SIGNAL
  · subst hb
    rw [if_pos rfl]
    rcases Nat.mod_two_eq_zero_or_one (trailingSignals before) with heven | hodd
    · rw [heven] at h
      rw [Writer.push_first_signal h, Nat.succ_mod_two_eq_one_iff.mpr heven]
    · rw [hodd] at h
      rw [Writer.push_second_signal h, Nat.succ_mod_two_eq_zero_iff.mpr hodd]
  · rw [x.push_of_ne_signal hb, if_neg hb]

/-! ### Bytes written in a row (R142, R143) -/

@[simp] theorem Writer.pushAll_sink (bs : List Byte) : ∀ x : Writer, (x.pushAll bs).1.sink = x.sink := by
  induction bs with
  | nil => exact fun _ => rfl
  | cons b rest ih =>
    intro x
    rw [Writer.pushAll, ih, Writer.push_sink]

theorem Writer.pushAll_counts_run (bs : List Byte) :
    ∀ {x : Writer} {before : List Byte}, x.sigcnt = BitVec.ofNat 2 (trailingSignals before % 2) →
      (x.pushAll bs).1.sigcnt = BitVec.ofNat 2 (trailingSignals (before ++ bs) % 2) := by
  induction bs with
  | nil =>
    intro x before h
    rwa [List.append_nil]
  | cons b rest ih =>
    intro x before h
    rw [Writer.pushAll, ih (Writer.push_counts_run h b), List.append_assoc, List.singleton_append]

theorem Writer.eq_of_fields {x y : Writer} (hcrc : x.crc = y.crc) (hcount : x.sigcnt = y.sigcnt)
    (hsink : x.sink = y.sink) : x = y := by
  cases x
  congr

/-- R142, R143: what a fresh writer holds after any bytes. -/
theorem Writer.pushAll_fresh (sink : Ref) (bs : List Byte) :
    (Writer.fresh sink).pushAll bs =
      ({ crc := crcFold crcStart (stuffed bs), sigcnt := BitVec.ofNat 2 (trailingSignals bs % 2), sink := sink },
        stuffed bs) := by
  have hsent : ((Writer.fresh sink).pushAll bs).2 = stuffed bs := Writer.pushAll_sends_stuffed bs _ rfl
  have hcrc : ((Writer.fresh sink).pushAll bs).1.crc = crcFold crcStart (stuffed bs) :=
    hsent ▸ Writer.pushAll_crc bs (Writer.fresh sink)
  have hcount : ((Writer.fresh sink).pushAll bs).1.sigcnt = BitVec.ofNat 2 (trailingSignals bs % 2) :=
    Writer.pushAll_counts_run bs (before := []) rfl
  have hsink : ((Writer.fresh sink).pushAll bs).1.sink = sink := Writer.pushAll_sink bs _
  exact Prod.ext (Writer.eq_of_fields hcrc hcount hsink) hsent

theorem State.send_send (s : State) (sink : Ref) (xs ys : List Byte) :
    (s.send sink xs).send sink ys = s.send sink (xs ++ ys) := by
  simp [State.send]

theorem execWrByte_setWriter (s : State) (w : Ref) (x : Writer) (b : Byte) :
    execWrByte w b ((s.setWriter w x).setResult .none) =
      .next (((s.send x.sink (x.push b).2).setWriter w (x.push b).1).setResult .none) := by
  have hw : ((s.setWriter w x).setResult .none).writer w = some x := s.writer_setWriter_same w x
  refine (exec_wrByte hw b).trans ?_
  simp [State.setWriter, State.send, State.setResult]

/-- Bytes written in a row leave the writer, and send the bytes, that `Writer.pushAll` says, and change nothing else. -/
theorem State.write_setWriter (w : Ref) (bs : List Byte) :
    ∀ (s : State) (x : Writer), ((s.setWriter w x).setResult .none).write w bs =
      .next (((s.send x.sink (x.pushAll bs).2).setWriter w (x.pushAll bs).1).setResult .none) := by
  induction bs with
  | nil =>
    intro s x
    simp [State.write, Writer.pushAll, State.send]
  | cons b rest ih =>
    intro s x
    rw [State.write, execWrByte_setWriter, Writer.pushAll]
    simp only [ih, Writer.push_sink, State.send_send]

end Sys2Proof.Machine

namespace Sys2Proof.Proofs

open Sys2Proof.Machine

/-- Settles O19: the writes are one run of the writer, which from a fresh one is known in closed form. -/
theorem writerSendsTheStuffedBytes : Obligations.WriterSendsTheStuffedBytes := by
  intro s s0 w sink bs hinit
  rw [exec_wrInit] at hinit
  cases hinit
  have hwrite := State.write_setWriter w bs s (Writer.fresh sink)
  rw [Writer.pushAll_fresh] at hwrite
  exact ⟨_, hwrite, rfl, State.writer_setWriter_same .., fun _ hne => State.writer_setWriter_other _ _ hne,
    rfl, rfl, rfl, rfl⟩

/-- Settles O17: only the table of writers and the result are written. -/
theorem writerStartsFresh : Obligations.WriterStartsFresh :=
  fun s w sink => ⟨_, exec_wrInit w sink s, s.writer_setWriter_same w _, fun _ hne => s.writer_setWriter_other _ hne,
    rfl, rfl, rfl, rfl, rfl, rfl⟩

/-- Settles O18: a byte that is not `SIGNAL`, the second signal byte of a pair, and any other signal byte. -/
theorem writerStuffsAfterASecondSignal : Obligations.WriterStuffsAfterASecondSignal := by
  intro s w b x hx
  rw [exec_wrByte hx]
  by_cases hb : b = 0xAA#8
  · obtain rfl : b = SIGNAL := hb
    have hsignal : SIGNAL = 0xAA#8 := rfl
    rw [if_neg (not_not_intro hsignal)]
    by_cases hcount : x.sigcnt = 1#2
    · rw [Writer.push_second_signal hcount, if_pos hcount, if_pos (And.intro hsignal hcount)]
      rfl
    · rw [Writer.push_unpaired_signal hcount, if_neg hcount, if_neg (not_and_of_not_right _ hcount)]
      rfl
  · rw [x.push_of_ne_signal hb, if_pos hb, if_neg (not_and_of_not_left _ hb)]
    rfl

end Sys2Proof.Proofs
end

section
/-!
PROOFS. The frame decoder byte by byte (R171 to R183, R190, R191): the effect of a byte in closed form for each state
that stage 3 handles, that effect in the whole state, and runs of signal bytes (R173, R191, R277).
-/

namespace Sys2Proof.Machine

/-! ### A byte that stores nothing, in the whole state -/

/-- R41, R42: the deliveries of a byte go to the consumers that the context had before it. -/
theorem State.committed_receive_events (s : State) (link : Ref) (d : Decoder) (b : Byte) :
    (s.committed link (d.receive b)).events = s.events ++ d.deliveries link (d.receive b).event :=
  congrArg (s.events ++ ·)
    (Decoder.deliveries_congr (d.receive_sameConfig b).onPacket (d.receive_sameConfig b).onError link _)

section OneByte

variable {s : State} {link : Ref} {d d' : Decoder} {b : Byte} {i : Instr}

/-- A byte received without a store writes the context, and its event is delivered. -/
theorem exec_of_receive_eq (hi : exec i s = s.commit link (d.receive b)) {e : Option Event}
    (heffect : d.receive b = { decoder := d', store := none, event := e }) :
    exec i s = .next { s with decoders := Slots.put link.toNat d' s.decoders,
                              events := s.events ++ d.deliveries link e, result := .none } := by
  have hstore : (d.receive b).store = none := by rw [heffect]
  have hevents := s.committed_receive_events link d b
  rw [hi, s.commit_of_fits link (ByteEffect.fits_of_store_none hstore)]
  rw [heffect] at hevents ⊢
  exact congrArg (fun es => Host.Outcome.next { s.committed link _ with events := es }) hevents

/-- A byte received without a store and without an event writes the context only. -/
theorem exec_of_receive_eq_quiet (hi : exec i s = s.commit link (d.receive b)) (heffect : d.receive b = d'.quiet) :
    exec i s = .next { s with decoders := Slots.put link.toNat d' s.decoders, result := .none } := by
  rw [exec_of_receive_eq hi heffect, Decoder.deliveries, List.append_nil]

/-- `DEC_BYTE` of a pattern and the `BYTE` row that has it both commit the effect of the byte. -/
theorem exec_decByte_or_byteRow {row : Instr} (hrow : exec row s = s.receive link b) (hd : s.decoder link = some d)
    (hi : i = .decByte link b ∨ i = row) : exec i s = s.commit link (d.receive b) := by
  rw [← State.receive_of_decoder hd]
  rcases hi with rfl | rfl
  · rfl
  · exact hrow

end OneByte

/-! ### The effect of a byte that stage 3 sees, state by state -/

theorem Decoder.runAfter_signal (d : Decoder) : d.runAfter 0xAA#8 = d.sigcnt + 1#2 := if_pos rfl

theorem Decoder.runAfter_of_ne (d : Decoder) {b : Byte} (h : b ≠ 0xAA#8) : d.runAfter b = 0#2 := if_neg h

section Handlers

variable {d : Decoder} {b : Byte}

/-- R176: the byte is counted and ignored. -/
theorem Decoder.receive_of_waitingSignal (hs : d.state = .waitingSignal) (hr : d.reachesHandler b = true) :
    d.receive b = ({ d with sigcnt := d.runAfter b } : Decoder).quiet := by
  rw [Decoder.receive_of_reachesHandler hr]
  simp [Decoder.handle, hs, Decoder.onWaitingSignal]

/-- R177, the separator. -/
theorem Decoder.receive_of_separator (hs : d.state = .expectSeparator) (hr : d.reachesHandler 0x00#8 = true) :
    d.receive 0x00#8 =
      ({ d with sigcnt := d.runAfter 0x00#8, state := .expectSeq, seq := 0#32, cmd := 0#32, len := 0#32,
                count := 0#32, crcRx := 0#32, crcN := 0#2,
                crc := crcUpdate 0xFFFFFFFF#32 0x00#8 } : Decoder).quiet := by
  rw [Decoder.receive_of_reachesHandler hr]
  simp [Decoder.handle, hs, Decoder.onExpectSeparator, SEPARATOR, Decoder.clearAcc, crcStart, CRC_INIT]

/-- R177, R229: any other byte. -/
theorem Decoder.receive_of_not_separator (hs : d.state = .expectSeparator) (hr : d.reachesHandler b = true)
    (hb : b ≠ 0x00#8) :
    d.receive b = { decoder := { d with sigcnt := d.runAfter b, state := .waitingSignal }, store := none,
                    event := some (.err .invalidSeparatorByte) } := by
  rw [Decoder.receive_of_reachesHandler hr]
  simp [Decoder.handle, hs, Decoder.onExpectSeparator, SEPARATOR, hb, Decoder.takeError, ErrCode.stateAfter]

/-- R178: the byte's group goes into `seq`, and a last byte moves on. -/
theorem Decoder.receive_of_expectSeq (hs : d.state = .expectSeq) (hr : d.reachesHandler b = true) :
    d.receive b =
      ({ d with sigcnt := d.runAfter b, crc := crcUpdate d.crc b, seq := varintAccumulate d.seq b,
                state := if b.msb then .expectSeq else .expectCmd } : Decoder).quiet := by
  rw [Decoder.receive_of_reachesHandler hr]
  cases hv : b.msb <;> simp [Decoder.handle, hs, Decoder.onExpectSeq, varintDone, hv, Decoder.foldCrc]

/-- R179: the byte's group goes into `cmd`, and a last byte moves on. -/
theorem Decoder.receive_of_expectCmd (hs : d.state = .expectCmd) (hr : d.reachesHandler b = true) :
    d.receive b =
      ({ d with sigcnt := d.runAfter b, crc := crcUpdate d.crc b, cmd := varintAccumulate d.cmd b,
                state := if b.msb then .expectCmd else .expectLength } : Decoder).quiet := by
  rw [Decoder.receive_of_reachesHandler hr]
  cases hv : b.msb <;> simp [Decoder.handle, hs, Decoder.onExpectCmd, varintDone, hv, Decoder.foldCrc]

/-- R180: the capacity is compared on the last byte, before the length is compared with 0. -/
theorem Decoder.receive_of_expectLength (hs : d.state = .expectLength) (hr : d.reachesHandler b = true) :
    d.receive b =
      { decoder := { d with sigcnt := d.runAfter b, crc := crcUpdate d.crc b, len := varintAccumulate d.len b,
                            state := if b.msb then .expectLength
                                     else if d.cap.toNat < (varintAccumulate d.len b).toNat then .waitingSignal
                                     else if varintAccumulate d.len b = 0#32 then .expectCrc else .expectData },
        store := none,
        event := if b.msb = false ∧ d.cap.toNat < (varintAccumulate d.len b).toNat then some (.err .tooLarge)
                 else none } := by
  rw [Decoder.receive_of_reachesHandler hr]
  cases hv : b.msb with
  | true => simp [Decoder.handle, hs, Decoder.onExpectLength, varintDone, hv, Decoder.foldCrc, Decoder.quiet]
  | false =>
    by_cases hcap : d.cap < varintAccumulate d.len b
    · have hcap' : d.cap.toNat < (varintAccumulate d.len b).toNat := hcap
      simp [Decoder.handle, hs, Decoder.onExpectLength, varintDone, hv, Decoder.foldCrc, hcap, hcap',
        Decoder.takeError, ErrCode.stateAfter]
    · have hcap' : ¬ d.cap.toNat < (varintAccumulate d.len b).toNat := hcap
      by_cases h0 : varintAccumulate d.len b = 0#32
      · simp [Decoder.handle, hs, Decoder.onExpectLength, varintDone, hv, Decoder.foldCrc, h0, Decoder.quiet]
      · have hpos : 0#32 < varintAccumulate d.len b := by bv_omega
        simp [Decoder.handle, hs, Decoder.onExpectLength, varintDone, hv, Decoder.foldCrc, hcap, hcap', h0, hpos,
          Decoder.quiet]

/-- R182: `crc_n`, which has two bits, is 0 again after the fourth byte. -/
theorem Decoder.receive_of_expectCrc (hs : d.state = .expectCrc) (hr : d.reachesHandler b = true) :
    d.receive b =
      { decoder := { d with sigcnt := d.runAfter b, crcRx := d.newCrcRx b, crcN := d.crcN + 1#2,
                            state := if d.crcN ≠ 3#2 then .expectCrc
                                     else if d.crc ^^^ 0xFFFFFFFF#32 = d.newCrcRx b then .expectTerminator
                                     else .waitingSignal },
        store := none,
        event := if d.crcN = 3#2 ∧ d.crc ^^^ 0xFFFFFFFF#32 ≠ d.newCrcRx b then some (.err .checksumMismatch)
                 else none } := by
  rw [Decoder.receive_of_reachesHandler hr]
  by_cases hn : d.crcN = 3#2
  · by_cases hc : d.crc ^^^ 0xFFFFFFFF#32 = (d.crcRx <<< 8) ||| b.setWidth 32 <;>
      simp [Decoder.handle, hs, Decoder.onExpectCrc, hn, crcFinish, CRC_XOROUT, Decoder.newCrcRx, hc, Decoder.quiet,
        Decoder.takeError, ErrCode.stateAfter]
  · simp [Decoder.handle, hs, Decoder.onExpectCrc, hn, Decoder.newCrcRx, Decoder.quiet]

/-- R183: the state is left whatever the byte is. -/
theorem Decoder.receive_of_expectTerminator (hs : d.state = .expectTerminator) (hr : d.reachesHandler b = true) :
    d.receive b =
      { decoder := { d with sigcnt := d.runAfter b, state := .waitingSignal }, store := none,
        event := some (if b = 0x55#8 then
          .pkt d.seq d.cmd (if d.len = 0#32 then none else some { buf := d.buf, len := d.len }) d.len
          else .err .invalidTerminator) } := by
  rw [Decoder.receive_of_reachesHandler hr]
  by_cases hb : b = 0x55#8 <;>
    simp [Decoder.handle, hs, Decoder.onExpectTerminator, TERMINATOR, hb, Decoder.payloadView, Decoder.takeError,
      ErrCode.stateAfter]

end Handlers

/-! ### The varint rows (R73, R121) -/

theorem varintAccumulate_cont (acc : Word) (g : BitVec 7) :
    varintAccumulate acc (1#1 ++ g) = (acc <<< 7) ||| g.setWidth 32 :=
  congrArg (fun x : BitVec 7 => (acc <<< 7) ||| x.setWidth 32) (extract_varintByte true g)

theorem varintAccumulate_last (acc : Word) (g : BitVec 7) :
    varintAccumulate acc (0#1 ++ g) = (acc <<< 7) ||| g.setWidth 32 :=
  congrArg (fun x : BitVec 7 => (acc <<< 7) ||| x.setWidth 32) (extract_varintByte false g)

theorem msb_cont (g : BitVec 7) : (1#1 ++ g).msb = true := msb_varintByte true g

theorem msb_last (g : BitVec 7) : (0#1 ++ g).msb = false := msb_varintByte false g

/-- R78: of the continuation bytes, the one with group `2A` is a signal byte. -/
theorem cont_eq_signal_iff : ∀ g : BitVec 7, 1#1 ++ g = 0xAA#8 ↔ g = 0x2A#7 := by decide

theorem last_ne_signal : ∀ g : BitVec 7, 0#1 ++ g ≠ 0xAA#8 := by decide

theorem Decoder.runAfter_cont (d : Decoder) (g : BitVec 7) :
    d.runAfter (1#1 ++ g) = if g = 0x2A#7 then d.sigcnt + 1#2 else 0#2 := by
  simp only [Decoder.runAfter, cont_eq_signal_iff]

theorem Decoder.runAfter_last (d : Decoder) (g : BitVec 7) : d.runAfter (0#1 ++ g) = 0#2 :=
  d.runAfter_of_ne (last_ne_signal g)

/-! ### Runs of signal bytes (R173, R191, R277) -/

/-- A byte whose store, if any, fits is taken, and the bytes after it are fed to the state it leaves. -/
theorem State.feed_cons_of_fits {s : State} {link : Ref} {d : Decoder} {b : Byte} (hd : s.decoder link = some d)
    (hf : (d.receive b).Fits) (rest : List Byte) :
    s.feed link (b :: rest) = (s.committed link (d.receive b)).feed link rest := by
  have hx : execDecByte link b s = .next (s.committed link (d.receive b)) := exec_decByte_of_fits hd hf
  rw [State.feed, hx]

/-- R26: after two signal bytes the run counter is at least 2, whatever it was. -/
theorem two_le_sigcntNext_sigcntNext : ∀ n : BitVec 2, 2#2 ≤ sigcntNext (sigcntNext n) := by decide

/-- R172, R191: the third signal byte in a row syncs, whatever the context was before the first. -/
theorem Decoder.syncs_after_two_signals (d : Decoder) :
    ((d.receive 0xAA#8).decoder.receive 0xAA#8).decoder.syncs 0xAA#8 = true := by
  rw [Decoder.syncs_iff, Decoder.receive_sigcnt, Decoder.receive_sigcnt]
  exact ⟨rfl, two_le_sigcntNext_sigcntNext d.sigcnt⟩

/-- R176: an idle context counts the first and the second signal byte of a run and does nothing else. -/
theorem Decoder.receive_signal_of_idle {d : Decoder} (hs : d.state = .waitingSignal) (hn : d.sigcnt < 2#2) :
    d.receive 0xAA#8 = ({ d with sigcnt := d.sigcnt + 1#2 } : Decoder).quiet := by
  have hr : d.reachesHandler 0xAA#8 = true := by simp [Decoder.reachesHandler, hn]
  rw [Decoder.receive_of_waitingSignal hs hr, Decoder.runAfter_signal]

/-- R173 corner case c: after a sync every further signal byte of the run syncs again, each with its `new_packet`. -/
theorem State.feed_signals_of_synced {link : Ref} (k : Nat) :
    ∀ {s : State} {d : Decoder}, s.decoder link = some d → d.state = .expectSeparator → d.sigcnt = 3#2 →
      ∃ t d', s.feed link (List.replicate k 0xAA#8) = .next t ∧ t.decoder link = some d' ∧
        d'.state = .expectSeparator ∧ d'.sigcnt = 3#2 ∧
        t.events = s.events ++ (List.replicate k (d.deliveries link (some (.err .newPacket)))).flatten := by
  induction k with
  | zero => exact fun {s d} hd hs hn => ⟨s, d, rfl, hd, hs, hn, (List.append_nil _).symm⟩
  | succ k ih =>
    intro s d hd hs hn
    have heffect := Decoder.receive_of_syncs ((d.syncs_iff 0xAA#8).2 ⟨rfl, by rw [hn]; decide⟩)
    have hevents := s.committed_receive_events link d 0xAA#8
    obtain ⟨t, d', hfeed, hd', hs', hn', ht⟩ :=
      ih (s.decoder_committed_same link (d.receive 0xAA#8)) (by rw [heffect]) (by rw [heffect])
    have hsame := Decoder.deliveries_congr (d.receive_sameConfig 0xAA#8).onPacket (d.receive_sameConfig 0xAA#8).onError
    refine ⟨t, d', ?_, hd', hs', hn', ?_⟩
    · rw [List.replicate_succ, State.feed_cons_of_fits hd (ByteEffect.fits_of_store_none (by rw [heffect])), hfeed]
    · rw [ht, hevents, hsame, heffect, List.replicate_succ, List.flatten_cons, List.append_assoc]
      simp [hs]

/-- R171, R191: three signal bytes are three effects in a row; the third syncs, so that only the first two could
store. -/
theorem State.feed_three_signals {s : State} {link : Ref} {d : Decoder} (hd : s.decoder link = some d)
    (h1 : (d.receive 0xAA#8).Fits) (h2 : ((d.receive 0xAA#8).decoder.receive 0xAA#8).Fits) (rest : List Byte) :
    s.feed link (0xAA#8 :: 0xAA#8 :: 0xAA#8 :: rest) =
      (((s.committed link (d.receive 0xAA#8)).committed link ((d.receive 0xAA#8).decoder.receive 0xAA#8)).committed link
        (((d.receive 0xAA#8).decoder.receive 0xAA#8).decoder.receive 0xAA#8)).feed link rest := by
  have h3 : (((d.receive 0xAA#8).decoder.receive 0xAA#8).decoder.receive 0xAA#8).Fits := by
    rw [Decoder.receive_of_syncs d.syncs_after_two_signals]
    exact ByteEffect.fits_of_store_none rfl
  rw [State.feed_cons_of_fits hd h1, State.feed_cons_of_fits (State.decoder_committed_same ..) h2,
    State.feed_cons_of_fits (State.decoder_committed_same ..) h3]

/-- R173: from idle, the third byte of a run of signal bytes syncs without an event. -/
theorem State.feed_three_signals_of_idle {s : State} {link : Ref} {d : Decoder} (hd : s.decoder link = some d)
    (hs : d.state = .waitingSignal) (hn : d.sigcnt = 0#2) :
    ∃ (u : State) (d' : Decoder),
      (∀ rest, s.feed link (0xAA#8 :: 0xAA#8 :: 0xAA#8 :: rest) = u.feed link rest) ∧ u.decoder link = some d' ∧
      d'.state = .expectSeparator ∧ d'.sigcnt = 3#2 ∧ u.events = s.events ∧ d.SameConfig d' := by
  have h1 : d.receive 0xAA#8 = ({ d with sigcnt := 1#2 } : Decoder).quiet := by
    rw [Decoder.receive_signal_of_idle hs (by rw [hn]; decide), hn]
    rfl
  have h2 : (d.receive 0xAA#8).decoder.receive 0xAA#8 = ({ d with sigcnt := 2#2 } : Decoder).quiet := by
    rw [h1]
    exact Decoder.receive_signal_of_idle (d := { d with sigcnt := 1#2 }) hs (show 1#2 < 2#2 by decide)
  have h3 := Decoder.receive_of_syncs d.syncs_after_two_signals
  refine ⟨_, _, State.feed_three_signals hd (by rw [h1]; exact ByteEffect.fits_of_store_none rfl)
    (by rw [h2]; exact ByteEffect.fits_of_store_none rfl), State.decoder_committed_same .., ?_⟩
  rw [State.committed_receive_events, State.committed_receive_events, State.committed_receive_events, h3, h2, h1]
  refine ⟨rfl, rfl, ?_, rfl, rfl, rfl, rfl⟩
  simp [Decoder.quiet, Decoder.deliveries, hs]

end Sys2Proof.Machine

namespace Sys2Proof.Proofs

open Sys2Proof.Machine

/-- Settles O42: the state that the step leaves is the commit of the byte's effect, whose state and event are those of
the table. -/
theorem decoderFollowsTheTransitionTable : Obligations.DecoderFollowsTheTransitionTable := by
  intro s t link d b hd hx
  obtain ⟨e, he, _, rfl⟩ := exec_receives_eq_next (i := .decByte link b) rfl hx
  rw [hd] at he
  cases he
  refine ⟨_, s.decoder_committed_same link _, d.receive_state b, ?_⟩
  rw [State.committed_receive_events, Decoder.receive_event]

/-- Settles O45: under the invariant each byte is taken, and the third syncs. -/
theorem threeSignalsResynchronise : Obligations.ThreeSignalsResynchronise := by
  intro s link d hinv hd
  have h := hinv.decoder hd
  refine ⟨_, _, State.feed_three_signals hd (Decoder.receive_fits h _)
    (Decoder.receive_fits (Decoder.receive_inv h _) _) [], State.decoder_committed_same .., ?_⟩
  rw [Decoder.receive_of_syncs d.syncs_after_two_signals]
  exact ⟨rfl, rfl, rfl, rfl, rfl, rfl, rfl, rfl⟩

/-- Settles O46: three signal bytes sync without an event, and each of the `m - 3` after them syncs again. -/
theorem idleSignalRunReportsEachExtraByte : Obligations.IdleSignalRunReportsEachExtraByte := by
  intro s link d m hd hs hn hm
  obtain ⟨k, rfl⟩ := Nat.exists_eq_add_of_le' hm
  obtain ⟨u, e, hfeed, he, hes, hen, hevents, hsame⟩ := State.feed_three_signals_of_idle hd hs hn
  obtain ⟨t, d', ht, hd', hs', hn', htevents⟩ := State.feed_signals_of_synced k he hes hen
  refine ⟨t, d', (hfeed _).trans ht, hd', hs', hn', ?_⟩
  rw [htevents, hevents, Decoder.deliveries_congr hsame.onPacket hsame.onError, Nat.add_sub_cancel]

/-- Settles O25: such a signal byte is the one that stage 1 consumes. -/
theorem thirdSignalByteSyncs : Obligations.ThirdSignalByteSyncs := by
  intro s link d i hd hn hi
  exact exec_of_receive_eq (exec_decByte_or_byteRow rfl hd hi)
    (Decoder.receive_of_syncs ((d.syncs_iff _).2 ⟨rfl, hn⟩))

/-- Settles O26: the byte is the one that stage 2 consumes, and is `00`. -/
theorem stuffingByteIsDiscarded : Obligations.StuffingByteIsDiscarded := by
  intro s link d i hd hn hi
  have hstuff : d.stuffChecks 0x00#8 = true := (d.stuffChecks_iff _).2 ⟨by decide, hn⟩
  have heffect := Decoder.receive_of_stuffChecks hstuff
  rw [if_pos rfl] at heffect
  exact exec_of_receive_eq_quiet (exec_decByte_or_byteRow rfl hd hi) heffect

/-- Settles O27: the byte is the one that stage 2 consumes, and is not `00`. -/
theorem wrongByteAfterAPairIsADesync : Obligations.WrongByteAfterAPairIsADesync := by
  intro s link d b hd hn hsignal hb
  have heffect := Decoder.receive_of_stuffChecks ((d.stuffChecks_iff b).2 ⟨hsignal, hn⟩)
  rw [if_neg hb] at heffect
  exact exec_of_receive_eq (exec_decByte_or_row hd rfl (.inl rfl)) heffect

/-- Settles O30: the accumulator after the separator is one update of the initial one, which the table gives. -/
theorem separatorStartsTheHeader : Obligations.SeparatorStartsTheHeader := by
  intro s link d i hd hs hn hi
  have hr : d.reachesHandler 0x00#8 = true := by simp [Decoder.reachesHandler, hn]
  have hcrc : crcUpdate 0xFFFFFFFF#32 0x00#8 = 0x2DFD1072#32 := by decide
  have heffect := Decoder.receive_of_separator hs hr
  rw [hcrc, d.runAfter_of_ne (by decide)] at heffect
  exact exec_of_receive_eq_quiet (exec_decByte_or_byteRow rfl hd hi) heffect

/-- Settles O32: the rows receive a varint byte of the group, in each state the handler of its field. -/
theorem varintRowsAccumulateTheField : Obligations.VarintRowsAccumulateTheField := by
  intro s link d g hd
  have hcont : exec (.byteVarintCont link g) s = s.commit link (d.receive (1#1 ++ g)) := State.receive_of_decoder hd _
  have hlast : exec (.byteVarintLast link g) s = s.commit link (d.receive (0#1 ++ g)) := State.receive_of_decoder hd _
  refine ⟨fun hr => ⟨fun hs => ?_, fun hs => ?_, fun hs => ?_⟩,
    fun hr => ⟨fun hs => ?_, fun hs => ?_, fun hs => ?_⟩⟩
  · rw [exec_of_receive_eq_quiet hcont (Decoder.receive_of_expectSeq hs hr)]
    simp [varintAccumulate_cont, msb_cont, Decoder.runAfter_cont, hs]
  · rw [exec_of_receive_eq_quiet hcont (Decoder.receive_of_expectCmd hs hr)]
    simp [varintAccumulate_cont, msb_cont, Decoder.runAfter_cont, hs]
  · rw [exec_of_receive_eq hcont (Decoder.receive_of_expectLength hs hr)]
    simp [varintAccumulate_cont, msb_cont, Decoder.runAfter_cont, hs, Decoder.deliveries]
  · rw [exec_of_receive_eq_quiet hlast (Decoder.receive_of_expectSeq hs hr)]
    simp [varintAccumulate_last, msb_last, Decoder.runAfter_last]
  · rw [exec_of_receive_eq_quiet hlast (Decoder.receive_of_expectCmd hs hr)]
    simp [varintAccumulate_last, msb_last, Decoder.runAfter_last]
  · rw [exec_of_receive_eq hlast (Decoder.receive_of_expectLength hs hr)]
    simp [varintAccumulate_last, msb_last, Decoder.runAfter_last]

/-- Settles O33: the byte changes the run counter only, and no event follows. -/
theorem waitingSignalIgnoresEveryByte : Obligations.WaitingSignalIgnoresEveryByte :=
  fun _ _ _ _ _ hd hs hr hi =>
    exec_of_receive_eq_quiet (exec_decByte_or_row hd hs hi) (Decoder.receive_of_waitingSignal hs hr)

/-- Settles O34, by whether the byte is the separator. -/
theorem expectSeparatorChecksTheByte : Obligations.ExpectSeparatorChecksTheByte := by
  intro s link b d i hd hs hr hi
  have hx := exec_decByte_or_row hd hs hi
  split
  · rename_i hb
    subst hb
    exact exec_of_receive_eq_quiet hx (Decoder.receive_of_separator hs hr)
  · rename_i hb
    exact exec_of_receive_eq hx (Decoder.receive_of_not_separator hs hr hb)

/-- Settles O35: the byte reaches the handler of `expect_seq`, which neither stores nor reports. -/
theorem expectSeqAccumulates : Obligations.ExpectSeqAccumulates :=
  fun _ _ _ _ _ hd hs hr hi =>
    exec_of_receive_eq_quiet (exec_decByte_or_row hd hs hi) (Decoder.receive_of_expectSeq hs hr)

/-- Settles O36: the byte reaches the handler of `expect_cmd`, which neither stores nor reports. -/
theorem expectCmdAccumulates : Obligations.ExpectCmdAccumulates :=
  fun _ _ _ _ _ hd hs hr hi =>
    exec_of_receive_eq_quiet (exec_decByte_or_row hd hs hi) (Decoder.receive_of_expectCmd hs hr)

/-- Settles O37: the byte reaches the handler of `expect_length`, whose one event is `too_large`. -/
theorem expectLengthChecksTheCapacity : Obligations.ExpectLengthChecksTheCapacity :=
  fun _ _ _ _ _ hd hs hr hi =>
    exec_of_receive_eq (exec_decByte_or_row hd hs hi) (Decoder.receive_of_expectLength hs hr)

/-- Settles O39: the byte reaches the handler of `expect_crc`, whose one event is `checksum_mismatch`. -/
theorem expectCrcComparesOnTheFourthByte : Obligations.ExpectCrcComparesOnTheFourthByte :=
  fun _ _ _ _ _ hd hs hr hi =>
    exec_of_receive_eq (exec_decByte_or_row hd hs hi) (Decoder.receive_of_expectCrc hs hr)

/-- Settles O40: the byte reaches the handler of `expect_terminator`, which reports in both its cases. -/
theorem expectTerminatorDeliversOrDrops : Obligations.ExpectTerminatorDeliversOrDrops :=
  fun _ _ _ _ _ hd hs hr hi =>
    exec_of_receive_eq (exec_decByte_or_row hd hs hi) (Decoder.receive_of_expectTerminator hs hr)

end Sys2Proof.Proofs
end

section
/-!
PROOFS. Bytes received on two links may be taken in either order (R249): the effects of two bytes, put into the state in
the one order and in the other, are compared context by context, buffer by buffer and link by link.
-/

namespace Sys2Proof.Machine

/-! ### What stands in the state after one effect -/

theorem State.decoder_committed (s : State) (link : Ref) (e : ByteEffect) (l : Ref) :
    (s.committed link e).decoder l = if l = link then some e.decoder else s.decoder l := by
  split
  · subst l
    exact s.decoder_committed_same link e
  · exact s.decoder_committed_other e ‹_›

/-- The byte that a buffer shows after a store depends on no other byte that stood there before it. -/
theorem ByteEffect.read_storedIn_congr (e : ByteEffect) {m m' : Memory} {buf : Ref} {off : Nat} (hoff : off < 2 ^ 32)
    (h : m.read buf off = m'.read buf off) : (e.storedIn m).read buf off = (e.storedIn m').read buf off := by
  rcases hs : e.store with _ | ⟨o, b⟩
  · rwa [ByteEffect.storedIn_of_store_none hs, ByteEffect.storedIn_of_store_none hs]
  · rw [ByteEffect.storedIn_of_store_some hs, ByteEffect.storedIn_of_store_some hs]
    by_cases heq : buf = e.decoder.buf ∧ off = o.toNat
    · obtain ⟨rfl, rfl⟩ := heq
      rw [Memory.read_write_same, Memory.read_write_same]
    · rwa [Memory.read_write_other _ _ o.isLt hoff heq, Memory.read_write_other _ _ o.isLt hoff heq]

/-- R41, R42: the events of a link grow by the deliveries of its own bytes only. -/
theorem State.linkEvents_committed (s : State) (link : Ref) (e : ByteEffect) (l : Ref) :
    (s.committed link e).events.filter (fun x => x.link = l) =
      s.events.filter (fun x => x.link = l) ++ if l = link then e.decoder.deliveries link e.event else [] := by
  rw [State.committed, List.filter_append, List.append_cancel_left_eq]
  have hlink := e.decoder.deliveries_link link e.event
  split
  · subst l
    exact List.filter_eq_self.2 fun x hx => by simp [hlink x hx]
  · rename_i hne
    exact List.filter_eq_nil_iff.2 fun x hx => by simp [hlink x hx, Ne.symm hne]

/-! ### Two effects in either order (R249) -/

section TwoEffects

variable {e e' : ByteEffect} {link link' : Ref}

theorem State.decoder_committed_comm (s : State) (hne : link ≠ link') (l : Ref) :
    ((s.committed link' e').committed link e).decoder l = ((s.committed link e).committed link' e').decoder l := by
  simp only [State.decoder_committed]
  by_cases hl : l = link
  · simp [hl, hne]
  · simp [hl]

/-- R36: stores to two buffers commute, because each buffer shows only the one that is its own. -/
theorem ByteEffect.read_storedIn_comm (m : Memory) (hne : e.decoder.buf ≠ e'.decoder.buf) (buf : Ref) {off : Nat}
    (hoff : off < 2 ^ 32) :
    (e.storedIn (e'.storedIn m)).read buf off = (e'.storedIn (e.storedIn m)).read buf off := by
  by_cases hb : buf = e.decoder.buf
  · have hb' : buf ≠ e'.decoder.buf := hb ▸ hne
    rw [e'.read_storedIn_other _ hb' hoff]
    exact e.read_storedIn_congr hoff (e'.read_storedIn_other m hb' hoff)
  · rw [e.read_storedIn_other _ hb hoff]
    exact e'.read_storedIn_congr hoff (e.read_storedIn_other m hb hoff).symm

theorem State.linkEvents_committed_comm (s : State) (hne : link ≠ link') (l : Ref) :
    ((s.committed link' e').committed link e).events.filter (fun x => x.link = l) =
      ((s.committed link e).committed link' e').events.filter (fun x => x.link = l) := by
  simp only [State.linkEvents_committed]
  by_cases hl : l = link
  · simp [hl, hne]
  · simp [hl]

end TwoEffects

end Sys2Proof.Machine

namespace Sys2Proof.Proofs

open Sys2Proof.Machine

/-- Settles O54: neither byte changes the other link's context, so that in both orders the same two effects are put into
the state; they are on two links, and under the invariant on two buffers (R36). -/
theorem bytesOnDifferentLinksCommute : Obligations.BytesOnDifferentLinksCommute := by
  intro s t u link link' b b' hinv hne hx hx'
  obtain ⟨d, hd, hfits, rfl⟩ := exec_receives_eq_next rfl hx
  obtain ⟨d', hd', hfits', rfl⟩ := exec_receives_eq_next rfl hx'
  rw [s.decoder_committed_other _ hne.symm] at hd'
  have hd₂ : (s.committed link' (d'.receive b')).decoder link = some d := (s.decoder_committed_other _ hne).trans hd
  have hbuf : (d.receive b).decoder.buf ≠ (d'.receive b').decoder.buf := by
    rw [(d.receive_sameConfig b).buf, (d'.receive_sameConfig b').buf]
    exact hinv.buf_ne hd hd' hne
  exact ⟨_, _, exec_decByte_of_fits hd' hfits', exec_decByte_of_fits hd₂ hfits, s.decoder_committed_comm hne,
    fun buf _ hoff => ByteEffect.read_storedIn_comm s.memory hbuf buf hoff, s.linkEvents_committed_comm hne⟩

end Sys2Proof.Proofs
end

section
/-!
PROOFS. Bytes received in a row by one context (R171): what a run of them leaves in the context, stores and reports,
apart from the state that holds the context; and when a byte of a run meets no pair of signal bytes (R172, R175).
-/

namespace Sys2Proof.Machine

/-! ### A run of bytes on one context -/

/-- What a run of received bytes does to its context: the registers it leaves, the stores and the events, in order. -/
structure RunEffect where
  decoder : Decoder
  stores : List (Word × Byte)
  events : List Event

/-- `DEC_BYTE` of each byte in order, on the context alone (R83, R171). -/
def Decoder.run (d : Decoder) : List Byte → RunEffect
  | [] => { decoder := d, stores := [], events := [] }
  | b :: rest =>
    { decoder := ((d.receive b).decoder.run rest).decoder,
      stores := (d.receive b).store.toList ++ ((d.receive b).decoder.run rest).stores,
      events := (d.receive b).event.toList ++ ((d.receive b).decoder.run rest).events }

/-- The stores of a run, made one after another in one buffer (R53). -/
def Memory.writeAll (m : Memory) (buf : Ref) (stores : List (Word × Byte)) : Memory :=
  stores.foldl (fun m p => m.write buf p.1.toNat p.2) m

/-- What the consumers of a context see of the events of a run (R41, R42). -/
def Decoder.deliveriesAll (d : Decoder) (link : Ref) (events : List Event) : List Emission :=
  events.flatMap fun e => d.deliveries link (some e)

@[simp] theorem Decoder.run_nil (d : Decoder) : d.run [] = { decoder := d, stores := [], events := [] } := rfl

theorem Decoder.run_append (d : Decoder) (as bs : List Byte) :
    d.run (as ++ bs) =
      { decoder := ((d.run as).decoder.run bs).decoder,
        stores := (d.run as).stores ++ ((d.run as).decoder.run bs).stores,
        events := (d.run as).events ++ ((d.run as).decoder.run bs).events } := by
  induction as generalizing d with
  | nil => rfl
  | cons b rest ih => simp [Decoder.run, ih]

/-- Two runs in a row whose effects are known. -/
theorem Decoder.run_append_of_eq {d d₁ : Decoder} {as : List Byte} {ws : List (Word × Byte)} {es : List Event}
    (h : d.run as = ⟨d₁, ws, es⟩) (bs : List Byte) :
    d.run (as ++ bs) = ⟨(d₁.run bs).decoder, ws ++ (d₁.run bs).stores, es ++ (d₁.run bs).events⟩ := by
  rw [Decoder.run_append, h]

/-- A byte whose effect is known, and the run after it. -/
theorem Decoder.run_cons_of_eq {d d₁ : Decoder} {b : Byte} {store : Option (Word × Byte)} {event : Option Event}
    (h : d.receive b = ⟨d₁, store, event⟩) (bs : List Byte) :
    d.run (b :: bs) =
      ⟨(d₁.run bs).decoder, store.toList ++ (d₁.run bs).stores, event.toList ++ (d₁.run bs).events⟩ := by
  rw [Decoder.run, h]

/-- A run that writes registers only, and the run after it. -/
theorem Decoder.run_append_of_quiet {d d₁ : Decoder} {as : List Byte} (h : d.run as = ⟨d₁, [], []⟩)
    (bs : List Byte) : d.run (as ++ bs) = d₁.run bs :=
  Decoder.run_append_of_eq h bs

/-- A byte that writes registers only, and the run after it. -/
theorem Decoder.run_cons_of_quiet {d d₁ : Decoder} {b : Byte} (h : d.receive b = d₁.quiet) (bs : List Byte) :
    d.run (b :: bs) = d₁.run bs :=
  Decoder.run_cons_of_eq h bs

/-- No run changes the configuration of a context (R28). -/
theorem Decoder.run_sameConfig (d : Decoder) (bs : List Byte) : d.SameConfig (d.run bs).decoder := by
  induction bs generalizing d with
  | nil => exact ⟨rfl, rfl, rfl, rfl⟩
  | cons b rest ih =>
    have h := d.receive_sameConfig b
    have hrest := ih (d.receive b).decoder
    exact ⟨hrest.buf.trans h.buf, hrest.cap.trans h.cap, hrest.onPacket.trans h.onPacket,
      hrest.onError.trans h.onError⟩

/-- R32: a run keeps the invariant of its context. -/
theorem Decoder.run_inv {d : Decoder} (h : d.Inv) (bs : List Byte) : (d.run bs).decoder.Inv := by
  induction bs generalizing d with
  | nil => exact h
  | cons b rest ih => exact ih (Decoder.receive_inv h b)

/-! ### A run in the whole state -/

theorem Decoder.deliveriesAll_append (d : Decoder) (link : Ref) (es es' : List Event) :
    d.deliveriesAll link (es ++ es') = d.deliveriesAll link es ++ d.deliveriesAll link es' :=
  List.flatMap_append

theorem Decoder.deliveriesAll_toList (d : Decoder) (link : Ref) (e : Option Event) :
    d.deliveriesAll link e.toList = d.deliveries link e := by
  cases e with
  | none => rfl
  | some e => simp [Decoder.deliveriesAll]

/-- The deliveries depend on the two consumer slots only. -/
theorem Decoder.SameConfig.deliveriesAll_eq {d d' : Decoder} (h : d.SameConfig d') (link : Ref) (es : List Event) :
    d'.deliveriesAll link es = d.deliveriesAll link es :=
  congrArg (es.flatMap ·) (funext fun e => Decoder.deliveries_congr h.onPacket h.onError link (some e))

theorem ByteEffect.storedIn_eq_writeAll (e : ByteEffect) (m : Memory) :
    e.storedIn m = m.writeAll e.decoder.buf e.store.toList := by
  rcases hs : e.store with _ | ⟨off, b⟩
  · exact ByteEffect.storedIn_of_store_none hs m
  · exact ByteEffect.storedIn_of_store_some hs m

theorem Memory.writeAll_append (m : Memory) (buf : Ref) (ws ws' : List (Word × Byte)) :
    m.writeAll buf (ws ++ ws') = (m.writeAll buf ws).writeAll buf ws' :=
  List.foldl_append

/-- The state that a run leaves, as far as its link is concerned: the context, the deliveries and the stores. -/
structure State.LeftByRun (s t : State) (link : Ref) (d : Decoder) (r : RunEffect) : Prop where
  decoder : t.decoder link = some r.decoder
  events : t.events = s.events ++ d.deliveriesAll link r.events
  memory : t.memory = s.memory.writeAll d.buf r.stores

/-- R40, R171: under the invariant a context takes any bytes, and the state shows what its run does. -/
theorem State.Inv.feed_run {s : State} (h : s.Inv) {link : Ref} {d : Decoder} (hd : s.decoder link = some d)
    (bs : List Byte) : ∃ t, s.feed link bs = .next t ∧ s.LeftByRun t link d (d.run bs) := by
  induction bs generalizing s d with
  | nil => exact ⟨s, rfl, hd, (List.append_nil _).symm, rfl⟩
  | cons b rest ih =>
    have hsame := d.receive_sameConfig b
    have hevents := s.committed_receive_events link d b
    obtain ⟨t, hfeed, hleft⟩ := ih (h.committed hd b) (s.decoder_committed_same link _)
    refine ⟨t, ?_, hleft.decoder, ?_, ?_⟩
    · rw [State.feed_cons_of_fits hd (Decoder.receive_fits (h.decoder hd) b), hfeed]
    · rw [hleft.events, hevents, hsame.deliveriesAll_eq, Decoder.run, Decoder.deliveriesAll_append,
        Decoder.deliveriesAll_toList, List.append_assoc]
    · rw [hleft.memory, Decoder.run, Memory.writeAll_append, ← hsame.buf]
      exact congrArg (Memory.writeAll · _ _) ((d.receive b).storedIn_eq_writeAll s.memory)

/-! ### Bytes that meet no pair of signal bytes (R172, R175, R272) -/

/-- Neither stage 1 nor stage 2 consumes a byte whose context has counted fewer than two signal bytes (R78). -/
theorem Decoder.reachesHandler_of_lt {d : Decoder} (h : d.sigcnt < 2#2) (b : Byte) : d.reachesHandler b = true := by
  unfold Decoder.reachesHandler
  split
  · exact decide_eq_true h
  · exact decide_eq_true fun hn => absurd h (by rw [hn]; decide)

/-- After the signal run that the context has counted, no two adjacent bytes are both `AA`. -/
def Decoder.MeetsNoPair (d : Decoder) (bs : List Byte) : Prop :=
  noSignalPair (List.replicate d.sigcnt.toNat SIGNAL ++ bs) = true

theorem noSignalPair_cons_of_ne {b : Byte} (h : b ≠ SIGNAL) (bs : List Byte) :
    noSignalPair (b :: bs) = noSignalPair bs := by
  cases bs with
  | nil => rfl
  | cons c rest => simp [noSignalPair, h]

theorem noSignalPair_signal_cons_of_ne {b : Byte} (h : b ≠ SIGNAL) (bs : List Byte) :
    noSignalPair (SIGNAL :: b :: bs) = noSignalPair bs := by
  rw [noSignalPair, noSignalPair_cons_of_ne h]
  simp [h]

theorem Decoder.sigcnt_cases {d : Decoder} (h : d.sigcnt < 2#2) : d.sigcnt = 0#2 ∨ d.sigcnt = 1#2 := by
  bv_omega

/-- A run that meets no pair starts with a counter of 0 or 1. -/
theorem Decoder.MeetsNoPair.sigcnt_lt {d : Decoder} {bs : List Byte} (h : d.MeetsNoPair bs) : d.sigcnt < 2#2 := by
  have hcases : ∀ n : BitVec 2, n < 2#2 ∨ n = 2#2 ∨ n = 3#2 := by decide
  rcases hcases d.sigcnt with hn | hn | hn
  · exact hn
  · rw [Decoder.MeetsNoPair, hn] at h
    cases h
  · rw [Decoder.MeetsNoPair, hn] at h
    cases h

/-- The first byte of a run that meets no pair does not complete one. -/
theorem Decoder.MeetsNoPair.not_second {d : Decoder} {b : Byte} {bs : List Byte} (h : d.MeetsNoPair (b :: bs)) :
    ¬ (d.sigcnt = 1#2 ∧ b = SIGNAL) := by
  rintro ⟨hn, rfl⟩
  rw [Decoder.MeetsNoPair, hn] at h
  cases h

/-- R172: a byte that does not complete a pair leaves a counter of 0 or 1. -/
theorem Decoder.receive_sigcnt_lt {d : Decoder} (hlt : d.sigcnt < 2#2) {b : Byte}
    (hb : ¬ (d.sigcnt = 1#2 ∧ b = SIGNAL)) : (d.receive b).decoder.sigcnt < 2#2 := by
  rw [Decoder.receive_sigcnt]
  split
  · rename_i hsignal
    rcases Decoder.sigcnt_cases hlt with hn | hn
    · rw [hn]
      decide
    · exact absurd ⟨hn, hsignal⟩ hb
  · decide

/-- R172: the counter carries what the bytes so far mean for the bytes after them. -/
theorem Decoder.meetsNoPair_receive_iff {d : Decoder} (hlt : d.sigcnt < 2#2) {b : Byte}
    (hb : ¬ (d.sigcnt = 1#2 ∧ b = SIGNAL)) (bs : List Byte) :
    (d.receive b).decoder.MeetsNoPair bs ↔ d.MeetsNoPair (b :: bs) := by
  rw [Decoder.MeetsNoPair, Decoder.MeetsNoPair, Decoder.receive_sigcnt]
  by_cases hsignal : b = SIGNAL
  · subst hsignal
    rcases Decoder.sigcnt_cases hlt with hn | hn
    · rw [hn]
      rfl
    · exact absurd ⟨hn, rfl⟩ hb
  · rw [if_neg hsignal]
    show noSignalPair bs = true ↔ _
    rcases Decoder.sigcnt_cases hlt with hn | hn
    · rw [hn, ← noSignalPair_cons_of_ne hsignal]
      rfl
    · rw [hn, ← noSignalPair_signal_cons_of_ne hsignal]
      rfl

theorem Decoder.MeetsNoPair.receive {d : Decoder} {b : Byte} {bs : List Byte} (h : d.MeetsNoPair (b :: bs)) :
    (d.receive b).decoder.MeetsNoPair bs :=
  (Decoder.meetsNoPair_receive_iff h.sigcnt_lt h.not_second bs).2 h

theorem Decoder.MeetsNoPair.reachesHandler {d : Decoder} {b : Byte} {bs : List Byte} (h : d.MeetsNoPair (b :: bs)) :
    d.reachesHandler b = true :=
  Decoder.reachesHandler_of_lt h.sigcnt_lt b

end Sys2Proof.Machine
end

section
/-!
PROOFS. A decoder that receives what a writer sends (R70, R77, R141, R171): the run counter and the CRC of the context
follow those of the writer byte by byte, through the separator, the header fields and the payload.
-/

namespace Sys2Proof.Machine

/-! ### One written byte, received (R141, R175) -/

/-- The context with the run counter and the accumulator of a writer. -/
def Decoder.following (d : Decoder) (x : Writer) : Decoder :=
  { d with sigcnt := x.sigcnt, crc := x.crc }

/-- The counter of a writer between two bytes (R32 clause e). -/
def Writer.Ready (x : Writer) : Prop :=
  x.sigcnt = 0#2 ∨ x.sigcnt = 1#2

theorem Writer.Ready.push {x : Writer} (h : x.Ready) (b : Byte) : (x.push b).1.Ready :=
  Writer.push_sigcnt h b

theorem Writer.Ready.pushAll {x : Writer} (h : x.Ready) (bs : List Byte) : (x.pushAll bs).1.Ready := by
  induction bs generalizing x with
  | nil => exact h
  | cons b rest ih => exact ih (h.push b)

theorem Writer.pushAll_append (x : Writer) (as bs : List Byte) :
    x.pushAll (as ++ bs) =
      (((x.pushAll as).1.pushAll bs).1, (x.pushAll as).2 ++ ((x.pushAll as).1.pushAll bs).2) := by
  induction as generalizing x with
  | nil => rfl
  | cons b rest ih => simp [Writer.pushAll, ih]

theorem Writer.pushAll_singleton (x : Writer) (b : Byte) : x.pushAll [b] = x.push b := by
  simp [Writer.pushAll]

/-- A signal byte that is not the second of a pair, or another byte, is sent alone. -/
theorem Writer.push_unpaired (x : Writer) {b : Byte} (h : ¬ (b = SIGNAL ∧ x.sigcnt = 1#2)) : (x.push b).2 = [b] := by
  by_cases hb : b = SIGNAL
  · subst hb
    rw [Writer.push_unpaired_signal fun hn => h ⟨rfl, hn⟩]
  · rw [x.push_of_ne_signal hb]

/-- R172: on a byte that is sent alone the two counters move alike. -/
theorem Writer.push_unpaired_registers {x : Writer} (hx : x.Ready) {b : Byte} (h : ¬ (b = SIGNAL ∧ x.sigcnt = 1#2)) :
    (x.push b).1.sigcnt = (if b = SIGNAL then sigcntNext x.sigcnt else 0#2) ∧
      (x.push b).1.crc = crcUpdate x.crc b := by
  by_cases hb : b = SIGNAL
  · subst hb
    have hn : x.sigcnt = 0#2 := hx.resolve_right fun hn => h ⟨rfl, hn⟩
    rw [Writer.push_first_signal hn, hn]
    exact ⟨rfl, rfl⟩
  · rw [x.push_of_ne_signal hb, if_neg hb]
    exact ⟨rfl, rfl⟩

theorem Writer.Ready.reachesHandler {x : Writer} (hx : x.Ready) (d : Decoder) (b : Byte) :
    (d.following x).reachesHandler b = true := by
  refine Decoder.reachesHandler_of_lt ?_ b
  show x.sigcnt < 2#2
  rcases hx with hn | hn <;> rw [hn] <;> decide

section Push

variable {d d' : Decoder} {x : Writer} {b : Byte} {store : Option (Word × Byte)}

/-- R175: after the second signal byte of a pair the inserted byte is consumed by stage 2; what it does to the CRC
depends on the state. -/
theorem Decoder.run_push_second (hn : x.sigcnt = 1#2)
    (hreceive : (d.following x).receive SIGNAL = ⟨d', store, none⟩) :
    (d.following x).run (x.push SIGNAL).2 =
      ⟨{ d' with sigcnt := 0#2, crc := if d'.state = .expectCrc then d'.crc else crcUpdate d'.crc STUFF },
        store.toList, []⟩ := by
  have hcount : d'.sigcnt = 2#2 := by
    have h := (d.following x).receive_sigcnt SIGNAL
    rw [hreceive, if_pos rfl] at h
    exact h.trans (congrArg sigcntNext hn)
  have hstuff := Decoder.receive_of_stuffChecks ((d'.stuffChecks_iff STUFF).2 ⟨by decide, hcount⟩)
  rw [if_pos (show STUFF = 0x00#8 from rfl)] at hstuff
  rw [Writer.push_second_signal hn, Decoder.run_cons_of_eq hreceive, Decoder.run_cons_of_eq hstuff]
  simp

/-- While the writer `x` sends the bytes `bs`, the context goes from `d` to `d'` with the counter and the accumulator of
the writer, makes these stores, and reports nothing. -/
def Decoder.Follows (d d' : Decoder) (x : Writer) (bs : List Byte) (stores : List (Word × Byte)) : Prop :=
  (d.following x).run (x.pushAll bs).2 = ⟨d'.following (x.pushAll bs).1, stores, []⟩

theorem Decoder.Follows.run_after {d d₁ d₂ : Decoder} {x : Writer} {as bs : List Byte}
    {ws ws' : List (Word × Byte)} (h : d₁.Follows d₂ (x.pushAll as).1 bs ws')
    (hrun : d.run (x.pushAll as).2 = ⟨d₁.following (x.pushAll as).1, ws, []⟩) :
    d.run (x.pushAll (as ++ bs)).2 = ⟨d₂.following (x.pushAll (as ++ bs)).1, ws ++ ws', []⟩ := by
  rw [Decoder.Follows] at h
  rw [Writer.pushAll_append, Decoder.run_append_of_eq hrun, h]
  rfl

theorem Decoder.Follows.append {d d₁ d₂ : Decoder} {x : Writer} {as bs : List Byte} {ws ws' : List (Word × Byte)}
    (h : d.Follows d₁ x as ws) (h' : d₁.Follows d₂ (x.pushAll as).1 bs ws') :
    d.Follows d₂ x (as ++ bs) (ws ++ ws') :=
  h'.run_after h

/-- A written byte that the context handles and folds, the inserted byte included: the context goes on following the
writer. -/
theorem Decoder.follows_push {d₁ : Decoder} (hx : x.Ready)
    (hreceive : (d.following x).receive b = ⟨d₁, store, none⟩) (hcrc : d₁.crc = crcUpdate x.crc b)
    (hfold : b = SIGNAL ∧ x.sigcnt = 1#2 → d₁.state ≠ .expectCrc)
    (hd' : d₁.following (x.push b).1 = d'.following (x.push b).1) : d.Follows d' x [b] store.toList := by
  rw [Decoder.Follows, Writer.pushAll_singleton, ← hd']
  by_cases hpair : b = SIGNAL ∧ x.sigcnt = 1#2
  · have hstate := hfold hpair
    obtain ⟨rfl, hn⟩ := hpair
    rw [Decoder.run_push_second hn hreceive, if_neg hstate, hcrc, Writer.push_second_signal hn]
    rfl
  · obtain ⟨hcount, hcrc'⟩ := Writer.push_unpaired_registers hx hpair
    have hsame : d₁.following (x.push b).1 = d₁ := by
      have h := (d.following x).receive_sigcnt b
      rw [hreceive] at h
      rw [Decoder.following, hcount, hcrc', ← hcrc]
      exact congrArg (fun n => { d₁ with sigcnt := n }) h.symm
    rw [x.push_unpaired hpair, Decoder.run_cons_of_eq hreceive, hsame]
    simp

/-- R175 corner case a: the inserted byte after the last payload byte is discarded without being folded. -/
theorem Decoder.run_push_discarded (hn : x.sigcnt = 1#2)
    (hreceive : (d.following x).receive SIGNAL = ⟨d', store, none⟩) (hcrc : d'.crc = crcUpdate x.crc SIGNAL)
    (hstate : d'.state = .expectCrc) :
    (d.following x).run (x.push SIGNAL).2 =
      ⟨d'.following { x with sigcnt := 0#2, crc := crcUpdate x.crc SIGNAL }, store.toList, []⟩ := by
  rw [Decoder.run_push_second hn hreceive, if_pos hstate, hcrc]
  rfl

end Push

/-! ### The context inside a frame (R174, R178 to R181) -/

/-- The context in a state of a frame, with the fields received and the payload bytes counted so far; the CRC field is
still to come. -/
def Decoder.inFrame (d : Decoder) (state : DecState) (seq cmd len count : Word) : Decoder :=
  { d with state := state, seq := seq, cmd := cmd, len := len, count := count, crcRx := 0#32, crcN := 0#2 }

section Fields

variable {x : Writer} (d : Decoder) (b : Byte) (seq cmd len : Word)

/-- R177: the separator is the first byte of a fresh writer. -/
theorem Decoder.run_separator {d : Decoder} (hs : d.state = .expectSeparator) (hn : d.sigcnt = 3#2) (sink : Ref) :
    d.run ((Writer.fresh sink).pushAll [SEPARATOR]).2 =
      ⟨(d.inFrame .expectSeq 0#32 0#32 0#32 0#32).following ((Writer.fresh sink).pushAll [SEPARATOR]).1, [],
        []⟩ := by
  have hr : d.reachesHandler 0x00#8 = true := by simp [Decoder.reachesHandler, hn]
  rw [Writer.pushAll_singleton, Writer.push_of_ne_signal _ (by decide), Decoder.run_cons_of_eq (b := SEPARATOR)
    (Decoder.receive_of_separator hs hr), Decoder.runAfter_of_ne d (by decide)]
  rfl

theorem Decoder.follows_seq_byte (hx : x.Ready) :
    (d.inFrame .expectSeq seq 0#32 0#32 0#32).Follows
      (d.inFrame (if b.msb then .expectSeq else .expectCmd) (varintAccumulate seq b) 0#32 0#32 0#32) x [b] [] := by
  refine Decoder.follows_push hx (Decoder.receive_of_expectSeq rfl (hx.reachesHandler _ b)) rfl (fun _ => ?_) rfl
  cases b.msb <;> simp

theorem Decoder.follows_cmd_byte (hx : x.Ready) :
    (d.inFrame .expectCmd seq cmd 0#32 0#32).Follows
      (d.inFrame (if b.msb then .expectCmd else .expectLength) seq (varintAccumulate cmd b) 0#32 0#32) x [b] [] := by
  refine Decoder.follows_push hx (Decoder.receive_of_expectCmd rfl (hx.reachesHandler _ b)) rfl (fun _ => ?_) rfl
  cases b.msb <;> simp

/-- The state after the length field, when the length fits (R180). -/
def afterLength (len : Word) : DecState :=
  if len = 0#32 then .expectCrc else .expectData

/-- R75: a last varint byte is not `AA`, so that only continuation bytes can be followed by an inserted byte. -/
theorem ne_signal_of_msb {b : Byte} (h : b.msb = false) : b ≠ SIGNAL := by
  rintro rfl
  cases h

theorem Decoder.follows_length_byte (hx : x.Ready)
    (hcap : b.msb = false → (varintAccumulate len b).toNat ≤ d.cap.toNat) :
    (d.inFrame .expectLength seq cmd len 0#32).Follows
      (d.inFrame (if b.msb then .expectLength else afterLength (varintAccumulate len b)) seq cmd
        (varintAccumulate len b) 0#32) x [b] [] := by
  have hreceive := Decoder.receive_of_expectLength (d := (d.inFrame .expectLength seq cmd len 0#32).following x)
    (b := b) rfl (hx.reachesHandler _ b)
  cases hb : b.msb with
  | true =>
    simp only [hb, if_true, Bool.true_eq_false, false_and, if_false] at hreceive ⊢
    exact Decoder.follows_push hx hreceive rfl (fun _ => by simp) rfl
  | false =>
    have hle : ¬ d.cap.toNat < (varintAccumulate len b).toNat := Nat.not_lt.2 (hcap hb)
    have hcapEq : ((d.inFrame .expectLength seq cmd len 0#32).following x).cap = d.cap := rfl
    have hlenEq : ((d.inFrame .expectLength seq cmd len 0#32).following x).len = len := rfl
    simp only [hb, hcapEq, hlenEq, hle, and_false, if_false, Bool.false_eq_true] at hreceive ⊢
    exact Decoder.follows_push hx hreceive rfl (fun hpair => absurd hpair.1 (ne_signal_of_msb hb)) rfl

/-! ### A whole field (R73, R120) -/

/-- The bytes of a varint field take the context from the state that reads the field, `reading`, to the state after it,
`done`, if each byte of the field does so. -/
theorem Decoder.follows_varint {reading done : Word → Decoder} {v : Word}
    (hcont : ∀ {x : Writer} (acc : Word) (b : Byte), x.Ready → b.msb = true →
      (reading acc).Follows (reading (varintAccumulate acc b)) x [b] [])
    (hlast : ∀ {x : Writer} (acc : Word) (b : Byte), x.Ready → b.msb = false → varintAccumulate acc b = v →
      (reading acc).Follows (done v) x [b] [])
    (bs : List Byte) : ∀ {x : Writer} (acc : Word), x.Ready → varintDecode acc bs = (v, true, []) →
      (reading acc).Follows (done v) x bs [] := by
  induction bs with
  | nil => exact fun _ _ h => by simp [varintDecode] at h
  | cons b rest ih =>
    intro x acc hx hdecode
    cases hb : b.msb with
    | true =>
      simp only [varintDecode, varintDone, hb, Bool.not_true, Bool.false_eq_true, if_false] at hdecode
      exact (hcont acc b hx hb).append (ih _ (hx.pushAll [b]) hdecode)
    | false =>
      simp only [varintDecode, varintDone, hb, Bool.not_false, if_true, Prod.mk.injEq, true_and] at hdecode
      obtain ⟨hv, rfl⟩ := hdecode
      exact hlast acc b hx hb hv

theorem varintDecode_varintBytes_nil (v : Word) : varintDecode 0#32 (varintBytes v) = (v, true, []) := by
  have h := varintDecode_varintBytes v []
  rwa [List.append_nil] at h

theorem Decoder.follows_seq (hx : x.Ready) :
    (d.inFrame .expectSeq 0#32 0#32 0#32 0#32).Follows (d.inFrame .expectCmd seq 0#32 0#32 0#32) x
      (varintBytes seq) [] := by
  refine Decoder.follows_varint (reading := fun acc => d.inFrame .expectSeq acc 0#32 0#32 0#32)
    (done := fun v => d.inFrame .expectCmd v 0#32 0#32 0#32) (fun acc b hx hb => ?_) (fun acc b hx hb hv => ?_)
    (varintBytes seq) 0#32 hx (varintDecode_varintBytes_nil seq)
  · simpa only [hb, if_true] using d.follows_seq_byte b acc hx
  · simpa only [hb, hv, Bool.false_eq_true, if_false] using d.follows_seq_byte b acc hx

theorem Decoder.follows_cmd (hx : x.Ready) :
    (d.inFrame .expectCmd seq 0#32 0#32 0#32).Follows (d.inFrame .expectLength seq cmd 0#32 0#32) x
      (varintBytes cmd) [] := by
  refine Decoder.follows_varint (reading := fun acc => d.inFrame .expectCmd seq acc 0#32 0#32)
    (done := fun v => d.inFrame .expectLength seq v 0#32 0#32) (fun acc b hx hb => ?_) (fun acc b hx hb hv => ?_)
    (varintBytes cmd) 0#32 hx (varintDecode_varintBytes_nil cmd)
  · simpa only [hb, if_true] using d.follows_cmd_byte b seq acc hx
  · simpa only [hb, hv, Bool.false_eq_true, if_false] using d.follows_cmd_byte b seq acc hx

theorem Decoder.follows_length (hx : x.Ready) (hcap : len.toNat ≤ d.cap.toNat) :
    (d.inFrame .expectLength seq cmd 0#32 0#32).Follows (d.inFrame (afterLength len) seq cmd len 0#32) x
      (varintBytes len) [] := by
  refine Decoder.follows_varint (reading := fun acc => d.inFrame .expectLength seq cmd acc 0#32)
    (done := fun v => d.inFrame (afterLength v) seq cmd v 0#32) (fun acc b hx hb => ?_) (fun acc b hx hb hv => ?_)
    (varintBytes len) 0#32 hx (varintDecode_varintBytes_nil len)
  · simpa only [hb, if_true] using d.follows_length_byte b seq cmd acc hx (fun h => by simp [hb] at h)
  · simpa only [hb, hv, Bool.false_eq_true, if_false] using
      d.follows_length_byte b seq cmd acc hx (fun _ => hv ▸ hcap)

/-! ### The payload (R181) -/

/-- The stores of payload bytes from an offset on (R53). -/
def payloadStores (off : Nat) (payload : List Byte) : List (Word × Byte) :=
  (payload.zipIdx off).map fun p => (BitVec.ofNat 32 p.2, p.1)

/-- R181: the effect of one payload byte. -/
theorem Decoder.receive_payload_byte (hx : x.Ready) {n c : Nat} (hc : c + 1 ≤ n) (hn : n < 2 ^ 32) :
    ((d.inFrame .expectData seq cmd (BitVec.ofNat 32 n) (BitVec.ofNat 32 c)).following x).receive b =
      ⟨{ d.inFrame (if c + 1 = n then .expectCrc else .expectData) seq cmd (BitVec.ofNat 32 n)
          (BitVec.ofNat 32 (c + 1)) with sigcnt := (d.following x).runAfter b, crc := crcUpdate x.crc b },
        some (BitVec.ofNat 32 c, b), none⟩ := by
  have hlast : BitVec.ofNat 32 c + 1#32 = BitVec.ofNat 32 n ↔ c + 1 = n := by
    rw [← BitVec.toNat_inj, ← BitVec.ofNat_add, BitVec.toNat_ofNat, BitVec.toNat_ofNat, Nat.mod_eq_of_lt (by omega),
      Nat.mod_eq_of_lt hn]
  rw [Decoder.receive_of_expectData rfl (hx.reachesHandler _ b)]
  simp only [Decoder.following, Decoder.inFrame, hlast, BitVec.ofNat_add]
  rfl

/-- A payload byte that is not the last is folded, and so is the byte inserted after it. -/
theorem Decoder.follows_payload_byte (hx : x.Ready) {n c : Nat} (hc : c + 1 < n) (hn : n < 2 ^ 32) :
    (d.inFrame .expectData seq cmd (BitVec.ofNat 32 n) (BitVec.ofNat 32 c)).Follows
      (d.inFrame .expectData seq cmd (BitVec.ofNat 32 n) (BitVec.ofNat 32 (c + 1))) x [b] (payloadStores c [b]) := by
  have hreceive := d.receive_payload_byte b seq cmd hx (Nat.le_of_lt hc) hn
  rw [if_neg (Nat.ne_of_lt hc)] at hreceive
  exact Decoder.follows_push hx hreceive rfl (fun _ => by simp [Decoder.inFrame]) rfl

theorem Decoder.follows_payload_part (payload : List Byte) : ∀ {x : Writer}, x.Ready →
    ∀ {n c : Nat}, c + payload.length < n → n < 2 ^ 32 →
    (d.inFrame .expectData seq cmd (BitVec.ofNat 32 n) (BitVec.ofNat 32 c)).Follows
      (d.inFrame .expectData seq cmd (BitVec.ofNat 32 n) (BitVec.ofNat 32 (c + payload.length))) x payload
      (payloadStores c payload) := by
  induction payload with
  | nil => exact fun _ _ _ _ _ => rfl
  | cons b rest ih =>
    intro x hx n c hc hn
    rw [List.length_cons] at hc
    have hrest := ih (hx.pushAll [b]) (n := n) (c := c + 1) (by omega) hn
    rw [Nat.add_assoc, Nat.add_comm 1] at hrest
    exact (d.follows_payload_byte b seq cmd hx (by omega) hn).append hrest

/-- The last payload byte is folded; nothing is inserted after it when it completes no pair. -/
theorem Decoder.follows_last_byte (hx : x.Ready) {n c : Nat} (hc : c + 1 = n) (hn : n < 2 ^ 32)
    (hpair : ¬ (b = SIGNAL ∧ x.sigcnt = 1#2)) :
    (d.inFrame .expectData seq cmd (BitVec.ofNat 32 n) (BitVec.ofNat 32 c)).Follows
      (d.inFrame .expectCrc seq cmd (BitVec.ofNat 32 n) (BitVec.ofNat 32 n)) x [b] (payloadStores c [b]) := by
  subst hc
  have hreceive := d.receive_payload_byte b seq cmd hx (Nat.le_refl _) hn
  rw [if_pos rfl] at hreceive
  exact Decoder.follows_push hx hreceive rfl (fun h => absurd h hpair) rfl

/-- R175 corner case a, R271: when the last payload byte completes a pair, the byte inserted after it is not folded. -/
theorem Decoder.run_last_pair (hsig : x.sigcnt = 1#2) {n c : Nat} (hc : c + 1 = n) (hn : n < 2 ^ 32) :
    ((d.inFrame .expectData seq cmd (BitVec.ofNat 32 n) (BitVec.ofNat 32 c)).following x).run (x.push SIGNAL).2 =
      ⟨(d.inFrame .expectCrc seq cmd (BitVec.ofNat 32 n) (BitVec.ofNat 32 n)).following
        { x with sigcnt := 0#2, crc := crcUpdate x.crc SIGNAL }, payloadStores c [SIGNAL], []⟩ := by
  subst hc
  have hreceive := d.receive_payload_byte SIGNAL seq cmd (.inr hsig) (Nat.le_refl _) hn
  rw [if_pos rfl] at hreceive
  rw [Decoder.run_push_discarded hsig hreceive rfl rfl]
  rfl

end Fields

/-! ### The covered region (R70, R271) -/

/-- What is written before the payload (R70): separator and header. -/
def frameHead (seq cmd : Word) (n : Nat) : List Byte :=
  [SEPARATOR] ++ (varintBytes seq ++ (varintBytes cmd ++ varintBytes (BitVec.ofNat 32 n)))

theorem frameBody_eq_head_append (seq cmd : Word) (payload : List Byte) :
    frameBody seq cmd payload = frameHead seq cmd payload.length ++ payload := by
  simp [frameBody, frameHead]

theorem payloadStores_append (off : Nat) (as bs : List Byte) :
    payloadStores off (as ++ bs) = payloadStores off as ++ payloadStores (off + as.length) bs := by
  simp [payloadStores, List.zipIdx_append]

/-- R77: the stuffed form ends in an inserted byte when the last byte completes a pair. -/
theorem endsStuffed_concat (bs : List Byte) (b : Byte) :
    endsStuffed (bs ++ [b]) = true ↔ b = SIGNAL ∧ trailingSignals bs % 2 = 1 := by
  rw [endsStuffed, trailingSignals_concat, Bool.and_eq_true, decide_eq_true_eq, decide_eq_true_eq]
  split
  · rename_i hb
    have := Nat.succ_mod_two_eq_zero_iff (m := trailingSignals bs)
    simp [hb, this]
  · rename_i hb
    simp [hb]

section CoveredRegion

variable {d : Decoder} (sink : Ref) (seq cmd : Word)

/-- R177 to R180: separator and header leave the context before the payload, or before the CRC field if there is
none. -/
theorem Decoder.run_frameHead (hs : d.state = .expectSeparator) (hsig : d.sigcnt = 3#2) {n : Nat}
    (hcap : n ≤ d.cap.toNat) :
    d.run ((Writer.fresh sink).pushAll (frameHead seq cmd n)).2 =
      ⟨(d.inFrame (afterLength (BitVec.ofNat 32 n)) seq cmd (BitVec.ofNat 32 n) 0#32).following
        ((Writer.fresh sink).pushAll (frameHead seq cmd n)).1, [], []⟩ := by
  have hx₀ : ((Writer.fresh sink).pushAll [SEPARATOR]).1.Ready := Writer.Ready.pushAll (.inl rfl) _
  have hx₁ := hx₀.pushAll (varintBytes seq)
  have hlen : (BitVec.ofNat 32 n).toNat ≤ d.cap.toNat := by
    rw [BitVec.toNat_ofNat]
    exact Nat.le_trans (Nat.mod_le _ _) hcap
  have hhead := (d.follows_seq seq hx₀).append
    ((d.follows_cmd seq cmd hx₁).append (d.follows_length seq cmd _ (hx₁.pushAll (varintBytes cmd)) hlen))
  exact hhead.run_after (Decoder.run_separator hs hsig sink)

/-- The bytes of the covered region that the decoder folds: all but an inserted byte at its end, which it receives in
`expect_crc` (R175 corner case a, R271). -/
def checkedRegion (payload : List Byte) : List Byte :=
  if endsStuffed (frameBody seq cmd payload) then (coveredRegion seq cmd payload).dropLast
  else coveredRegion seq cmd payload

/-- The context before the first byte of the CRC field of a frame. -/
def Decoder.atCrcField (d : Decoder) (payload : List Byte) : Decoder :=
  (d.inFrame .expectCrc seq cmd (BitVec.ofNat 32 payload.length) (BitVec.ofNat 32 payload.length)).following
    { Writer.fresh 0#8 with crc := crcFold crcStart (checkedRegion seq cmd payload),
                            sigcnt := BitVec.ofNat 2 (trailingSignals (frameBody seq cmd payload) % 2) }

/-- Where nothing is inserted at the end of the covered region, the context has followed the writer to its end. -/
theorem Decoder.atCrcField_of_not_endsStuffed {payload : List Byte}
    (h : ¬ endsStuffed (frameBody seq cmd payload) = true) :
    d.atCrcField seq cmd payload =
      (d.inFrame .expectCrc seq cmd (BitVec.ofNat 32 payload.length) (BitVec.ofNat 32 payload.length)).following
        ((Writer.fresh sink).pushAll (frameBody seq cmd payload)).1 := by
  rw [Decoder.atCrcField, checkedRegion, if_neg h, Writer.pushAll_fresh]
  rfl

/-- The last byte of a header is the last byte of a varint. -/
theorem frameHead_not_endsStuffed (n : Nat) : ¬ endsStuffed (frameHead seq cmd n) = true := by
  obtain ⟨k, _, hlen, _⟩ := varintLength_spec (BitVec.ofNat 32 n)
  obtain ⟨init, heq, _⟩ := varintGroups_succ (BitVec.ofNat 32 n) k
  rw [frameHead, varintBytes.eq_def (BitVec.ofNat 32 n), hlen, heq, ← List.append_assoc, ← List.append_assoc,
    ← List.append_assoc, endsStuffed_concat]
  exact fun h => ne_signal_of_msb (msb_varintByte false _) h.1

theorem trailingSignals_iff_push (bs : List Byte) :
    trailingSignals bs % 2 = 1 ↔ ((Writer.fresh sink).pushAll bs).1.sigcnt = 1#2 := by
  rw [Writer.pushAll_fresh]
  rcases Nat.mod_two_eq_zero_or_one (trailingSignals bs) with h | h <;> simp [h]

/-- R77, R271: the inserted byte at the end of the covered region. -/
theorem coveredRegion_of_last_pair {payload as : List Byte} (hbody : frameBody seq cmd payload = as ++ [SIGNAL])
    (h : endsStuffed (as ++ [SIGNAL]) = true) : coveredRegion seq cmd payload = stuffed as ++ [SIGNAL] ++ [STUFF] := by
  have hodd := (trailingSignals_iff_push 0#8 as).1 ((endsStuffed_concat as SIGNAL).1 h).2
  have hall := (Writer.fresh 0#8).pushAll_append as [SIGNAL]
  rw [Writer.pushAll_singleton, Writer.push_second_signal hodd, Writer.pushAll_fresh, Writer.pushAll_fresh] at hall
  rw [coveredRegion, hbody, List.append_assoc]
  exact congrArg Prod.snd hall

theorem checkedRegion_of_last_pair {payload as : List Byte} (hbody : frameBody seq cmd payload = as ++ [SIGNAL])
    (h : endsStuffed (as ++ [SIGNAL]) = true) : checkedRegion seq cmd payload = stuffed as ++ [SIGNAL] := by
  rw [checkedRegion, hbody, if_pos h, coveredRegion_of_last_pair seq cmd hbody h, List.dropLast_concat]

/-- R175 corner case a: where a byte is inserted at the end of the covered region, the context has counted it and not
folded it. -/
theorem Decoder.atCrcField_of_last_pair {payload as : List Byte}
    (hbody : frameBody seq cmd payload = as ++ [SIGNAL]) (h : endsStuffed (as ++ [SIGNAL]) = true) :
    d.atCrcField seq cmd payload =
      (d.inFrame .expectCrc seq cmd (BitVec.ofNat 32 payload.length) (BitVec.ofNat 32 payload.length)).following
        { ((Writer.fresh sink).pushAll as).1 with
          sigcnt := 0#2, crc := crcUpdate ((Writer.fresh sink).pushAll as).1.crc SIGNAL } := by
  have hcount : trailingSignals (as ++ [SIGNAL]) % 2 = 0 := by
    rw [trailingSignals_concat, if_pos rfl]
    exact Nat.succ_mod_two_eq_zero_iff.mpr ((endsStuffed_concat as SIGNAL).1 h).2
  rw [Decoder.atCrcField, checkedRegion_of_last_pair seq cmd hbody h, hbody, hcount, crcFold_append,
    Writer.pushAll_fresh]
  rfl

/-- A length that is not 0 is followed by the payload (R180). -/
theorem afterLength_of_pos {n : Nat} (hpos : 0 < n) (hn : n < 2 ^ 32) : afterLength (BitVec.ofNat 32 n) = .expectData :=
  if_neg fun h => by
    have h := congrArg BitVec.toNat h
    rw [BitVec.toNat_ofNat, Nat.mod_eq_of_lt hn] at h
    exact Nat.ne_of_gt hpos h

/-- R181: the whole payload, from the state after the header to the CRC field. -/
theorem Decoder.run_payload_of_head {n : Nat} (hn : n < 2 ^ 32) {init : List Byte} (b : Byte)
    (hlen : init.length + 1 = n)
    (hhead : d.run ((Writer.fresh sink).pushAll (frameHead seq cmd n)).2 =
      ⟨(d.inFrame .expectData seq cmd (BitVec.ofNat 32 n) 0#32).following
        ((Writer.fresh sink).pushAll (frameHead seq cmd n)).1, [], []⟩) :
    d.run ((Writer.fresh sink).pushAll (frameBody seq cmd (init ++ [b]))).2 =
      ⟨d.atCrcField seq cmd (init ++ [b]), payloadStores 0 (init ++ [b]), []⟩ := by
  have hx : ((Writer.fresh sink).pushAll (frameHead seq cmd n)).1.Ready := Writer.Ready.pushAll (.inl rfl) _
  have hinit := (d.follows_payload_part seq cmd init hx (c := 0) (by omega) hn).run_after hhead
  have hx' : ((Writer.fresh sink).pushAll (frameHead seq cmd n ++ init)).1.Ready := Writer.Ready.pushAll (.inl rfl) _
  have hfull : (init ++ [b]).length = n := by simp [hlen]
  have hbody : frameBody seq cmd (init ++ [b]) = frameHead seq cmd n ++ init ++ [b] := by
    rw [frameBody_eq_head_append, hfull, List.append_assoc]
  rw [payloadStores_append]
  by_cases hpair : b = SIGNAL ∧ ((Writer.fresh sink).pushAll (frameHead seq cmd n ++ init)).1.sigcnt = 1#2
  · obtain ⟨rfl, hsig⟩ := hpair
    have hstuffed := (endsStuffed_concat _ SIGNAL).2 ⟨rfl, (trailingSignals_iff_push sink _).2 hsig⟩
    rw [Decoder.atCrcField_of_last_pair sink seq cmd hbody hstuffed, hfull, hbody, Writer.pushAll_append,
      Writer.pushAll_singleton, Decoder.run_append_of_eq hinit,
      d.run_last_pair seq cmd hsig (c := 0 + init.length) (by omega) hn]
    rfl
  · have hnot : ¬ endsStuffed (frameHead seq cmd n ++ init ++ [b]) = true := by
      rwa [endsStuffed_concat, trailingSignals_iff_push sink]
    rw [Decoder.atCrcField_of_not_endsStuffed sink seq cmd (hbody ▸ hnot), hfull, hbody]
    exact (d.follows_last_byte b seq cmd hx' (c := 0 + init.length) (by omega) hn hpair).run_after hinit

/-- R171, R177 to R181: the covered region of a frame that fits takes a synced context to its CRC field, with the
payload stored from offset 0 and no event. -/
theorem Decoder.run_coveredRegion (hs : d.state = .expectSeparator) (hsig : d.sigcnt = 3#2) {payload : List Byte}
    (hcap : payload.length ≤ d.cap.toNat) :
    d.run (coveredRegion seq cmd payload) = ⟨d.atCrcField seq cmd payload, payloadStores 0 payload, []⟩ := by
  have hregion : coveredRegion seq cmd payload = ((Writer.fresh 0#8).pushAll (frameBody seq cmd payload)).2 := by
    rw [Writer.pushAll_fresh]
    rfl
  have hhead := Decoder.run_frameHead 0#8 seq cmd hs hsig hcap
  have hn : payload.length < 2 ^ 32 := Nat.lt_of_le_of_lt hcap d.cap.isLt
  rw [hregion]
  rcases List.eq_nil_or_concat payload with rfl | ⟨init, b, rfl⟩
  · have hbody : frameBody seq cmd [] = frameHead seq cmd 0 := by
      rw [frameBody_eq_head_append, List.append_nil]
      rfl
    rw [Decoder.atCrcField_of_not_endsStuffed 0#8 seq cmd (hbody ▸ frameHead_not_endsStuffed seq cmd 0), hbody]
    exact hhead
  · rw [List.concat_eq_append] at *
    rw [afterLength_of_pos (by simp) hn] at hhead
    exact Decoder.run_payload_of_head 0#8 seq cmd hn b (by simp) hhead

end CoveredRegion

end Sys2Proof.Machine
end

section
/-!
PROOFS. Whole frames (R271, R272, R275): the raw CRC field and the terminator, how far a context is from a packet, the
payload that the buffer shows after a frame, and from these which frames are delivered.
-/

namespace Sys2Proof.Machine

/-! ### The CRC field (R76, R182) -/

/-- The context inside the CRC field, with the bytes received so far. -/
def Decoder.inField (d : Decoder) (sigcnt : BitVec 2) (crcRx : Word) (crcN : BitVec 2) : Decoder :=
  { d with state := .expectCrc, sigcnt := sigcnt, crcRx := crcRx, crcN := crcN }

/-- The context after the CRC field (R182). -/
def Decoder.afterField (d : Decoder) (sigcnt : BitVec 2) (crcRx : Word) : Decoder :=
  { d with state := if crcFinish d.crc = crcRx then .expectTerminator else .waitingSignal, sigcnt := sigcnt,
           crcRx := crcRx, crcN := 0#2 }

/-- The event of the fourth byte of the CRC field (R182, R232). -/
def Decoder.fieldEvent (d : Decoder) (crcRx : Word) : Option Event :=
  if crcFinish d.crc = crcRx then none else some (.err .checksumMismatch)

theorem Decoder.fieldEvent_of_match {d : Decoder} {crcRx : Word} (h : crcFinish d.crc = crcRx) :
    d.fieldEvent crcRx = none := if_pos h

theorem Decoder.fieldEvent_of_mismatch {d : Decoder} {crcRx : Word} (h : crcFinish d.crc ≠ crcRx) :
    d.fieldEvent crcRx = some (.err .checksumMismatch) := if_neg h

theorem Decoder.MeetsNoPair.of_receive_eq {d d' : Decoder} {b : Byte} {bs : List Byte} {store : Option (Word × Byte)}
    {event : Option Event} (h : d.MeetsNoPair (b :: bs)) (heq : d.receive b = ⟨d', store, event⟩) :
    d'.MeetsNoPair bs := by
  have hrec := h.receive
  rwa [heq] at hrec

section Field

variable {d : Decoder} {sigcnt : BitVec 2} {crcRx : Word} {b : Byte} {rest : List Byte}

theorem Decoder.receive_inField {crcN crcN' : BitVec 2} (h : (d.inField sigcnt crcRx crcN).MeetsNoPair (b :: rest))
    (hn : crcN ≠ 3#2) (hnext : crcN + 1#2 = crcN') :
    ∃ n, (d.inField sigcnt crcRx crcN).receive b = (d.inField n (crcRx <<< 8 ||| b.setWidth 32) crcN').quiet ∧
      (d.inField n (crcRx <<< 8 ||| b.setWidth 32) crcN').MeetsNoPair rest := by
  subst hnext
  have heq := Decoder.receive_of_expectCrc rfl h.reachesHandler
  have hn' : ¬ (d.inField sigcnt crcRx crcN).crcN = 3#2 := hn
  simp only [hn', ne_eq, not_false_eq_true, if_true, false_and, if_false] at heq
  exact ⟨_, heq, h.of_receive_eq heq⟩

theorem Decoder.receive_inField_fourth (h : (d.inField sigcnt crcRx 3#2).MeetsNoPair (b :: rest)) :
    ∃ n, (d.inField sigcnt crcRx 3#2).receive b =
        ⟨d.afterField n (crcRx <<< 8 ||| b.setWidth 32), none, d.fieldEvent (crcRx <<< 8 ||| b.setWidth 32)⟩ ∧
      (d.afterField n (crcRx <<< 8 ||| b.setWidth 32)).MeetsNoPair rest := by
  have heq := Decoder.receive_of_expectCrc rfl h.reachesHandler
  have hn : (d.inField sigcnt crcRx 3#2).crcN = 3#2 := rfl
  simp only [hn, ne_eq, not_true_eq_false, if_false, true_and, ite_not] at heq
  exact ⟨_, heq, h.of_receive_eq heq⟩

/-- R76: four bytes shifted in, most-significant first, are the word that they were taken from. -/
theorem shiftIn_bytesMsbFirst (w : Word) :
    (bytesMsbFirst w).foldl (fun (rx : Word) b => rx <<< 8 ||| b.setWidth 32) 0#32 = w := by
  refine BitVec.eq_of_getLsbD_eq fun i hi => ?_
  simp only [bytesMsbFirst, List.foldl_cons, List.foldl_nil, BitVec.getLsbD_or, BitVec.getLsbD_shiftLeft,
    BitVec.getLsbD_setWidth, BitVec.getLsbD_extractLsb']
  interval_cases i <;> simp

/-- R182: the first three bytes of a CRC field that meets no pair of signal bytes are only shifted in. -/
theorem Decoder.run_field_init {w : Word} (h : (d.inField sigcnt 0#32 0#2).MeetsNoPair (bytesMsbFirst w ++ rest)) :
    ∃ n rx, (d.inField sigcnt 0#32 0#2).run (bytesMsbFirst w).dropLast = ⟨d.inField n rx 3#2, [], []⟩ ∧
      (d.inField n rx 3#2).MeetsNoPair (w.extractLsb' 0 8 :: rest) ∧
      rx <<< 8 ||| (w.extractLsb' 0 8).setWidth 32 = w := by
  obtain ⟨n₀, h₀, hm₀⟩ := Decoder.receive_inField h (by decide) (rfl : _ = 1#2)
  obtain ⟨n₁, h₁, hm₁⟩ := Decoder.receive_inField hm₀ (by decide) (rfl : _ = 2#2)
  obtain ⟨n₂, h₂, hm₂⟩ := Decoder.receive_inField hm₁ (by decide) (rfl : _ = 3#2)
  refine ⟨n₂, _, ?_, hm₂, shiftIn_bytesMsbFirst w⟩
  show (d.inField sigcnt 0#32 0#2).run [w.extractLsb' 24 8, w.extractLsb' 16 8, w.extractLsb' 8 8] = _
  rw [Decoder.run_cons_of_quiet h₀, Decoder.run_cons_of_quiet h₁, Decoder.run_cons_of_quiet h₂, Decoder.run_nil]

/-- R182: a CRC field that meets no pair of signal bytes is received whole; its fourth byte decides. -/
theorem Decoder.run_field {w : Word} (h : (d.inField sigcnt 0#32 0#2).MeetsNoPair (bytesMsbFirst w ++ rest)) :
    ∃ n, (d.inField sigcnt 0#32 0#2).run (bytesMsbFirst w) = ⟨d.afterField n w, [], (d.fieldEvent w).toList⟩ ∧
      (d.afterField n w).MeetsNoPair rest := by
  obtain ⟨n, rx, hinit, hm, hw⟩ := Decoder.run_field_init h
  obtain ⟨n₃, h₃, hm₃⟩ := Decoder.receive_inField_fourth hm
  rw [hw] at h₃ hm₃
  have hsplit : bytesMsbFirst w = (bytesMsbFirst w).dropLast ++ [w.extractLsb' 0 8] := rfl
  refine ⟨n₃, ?_, hm₃⟩
  rw [hsplit, Decoder.run_append_of_quiet hinit, Decoder.run_cons_of_eq h₃]
  simp

end Field

/-! ### The field and the terminator at the end of a run (R182, R183) -/

section AfterRun

variable {d c : Decoder} {as : List Byte} {ws : List (Word × Byte)} {es : List Event} {w : Word}

/-- The CRC field after a run that ends before it: its first three bytes report nothing. -/
theorem Decoder.run_append_field {rest : List Byte} (hrun : d.run as = ⟨c, ws, es⟩)
    (hstart : c.inField c.sigcnt 0#32 0#2 = c) (hpair : c.MeetsNoPair (bytesMsbFirst w ++ rest)) :
    (d.run (as ++ (bytesMsbFirst w).dropLast)).events = es ∧
      ∃ n, d.run (as ++ bytesMsbFirst w) = ⟨c.afterField n w, ws, es ++ (c.fieldEvent w).toList⟩ ∧
        (c.afterField n w).MeetsNoPair rest := by
  rw [← hstart] at hpair
  obtain ⟨n₀, rx, hinit, _⟩ := Decoder.run_field_init hpair
  obtain ⟨n, hall, hm⟩ := Decoder.run_field hpair
  rw [hstart] at hinit hall
  refine ⟨?_, n, ?_, hm⟩
  · rw [Decoder.run_append_of_eq hrun, hinit]
    exact List.append_nil es
  · rw [Decoder.run_append_of_eq hrun, hall, List.append_nil]

/-- After a matching field the terminator delivers the packet and stores nothing. -/
theorem Decoder.run_append_terminator_of_match {n : BitVec 2} (hrun : d.run as = ⟨c.afterField n w, ws, es⟩)
    (hm : (c.afterField n w).MeetsNoPair [TERMINATOR]) (hcrc : crcFinish c.crc = w) :
    (d.run (as ++ [TERMINATOR])).events =
        es ++ [.pkt c.seq c.cmd (if c.len = 0#32 then none else some { buf := c.buf, len := c.len }) c.len] ∧
      (d.run (as ++ [TERMINATOR])).stores = ws := by
  have hterm := Decoder.receive_of_expectTerminator (if_pos hcrc) hm.reachesHandler
  rw [if_pos (show TERMINATOR = 0x55#8 from rfl)] at hterm
  rw [Decoder.run_append_of_eq hrun, Decoder.run_cons_of_eq hterm]
  exact ⟨rfl, List.append_nil ws⟩

/-- After a field that does not match the terminator is ignored. -/
theorem Decoder.run_append_terminator_of_mismatch {n : BitVec 2} (hrun : d.run as = ⟨c.afterField n w, ws, es⟩)
    (hm : (c.afterField n w).MeetsNoPair [TERMINATOR]) (hcrc : crcFinish c.crc ≠ w) :
    (d.run (as ++ [TERMINATOR])).events = es := by
  have hterm := Decoder.receive_of_waitingSignal (if_neg hcrc) hm.reachesHandler
  rw [Decoder.run_append_of_eq hrun, Decoder.run_cons_of_quiet hterm]
  exact List.append_nil es

end AfterRun

/-! ### How far a context is from a packet (R190, R192) -/

/-- At least how many bytes a context must receive for a packet, the terminator among them, by its state and by how many
bytes of the CRC field it has received. -/
def DecState.bytesToPacket (crcN : BitVec 2) : DecState → Nat
  | .waitingSignal => 9
  | .expectSeparator => 9
  | .expectSeq => 8
  | .expectCmd => 7
  | .expectLength => 6
  | .expectData => 6
  | .expectCrc => 5 - crcN.toNat
  | .expectTerminator => 1

def Decoder.bytesToPacket (d : Decoder) : Nat :=
  d.state.bytesToPacket d.crcN

theorem Decoder.bytesToPacket_le (d : Decoder) : d.bytesToPacket ≤ 9 := by
  unfold Decoder.bytesToPacket DecState.bytesToPacket
  split <;> omega

/-- A byte that stage 1 or stage 2 consumes brings no context closer to a packet. -/
theorem Decoder.bytesToPacket_le_of_consumed {d : Decoder} {b : Byte} (h : ¬ d.reachesHandler b = true) :
    d.bytesToPacket ≤ (d.receive b).decoder.bytesToPacket := by
  rcases d.stage_cases b with hsync | hstuff | hreach
  · rw [Decoder.receive_of_syncs hsync]
    exact d.bytesToPacket_le
  · rw [Decoder.receive_of_stuffChecks hstuff]
    split
    · exact Nat.le_refl _
    · exact d.bytesToPacket_le
  · exact absurd hreach h

/-- R190: a byte brings a context at most one byte closer to a packet. -/
theorem Decoder.bytesToPacket_le_succ {d : Decoder} (hinv : d.Inv) (b : Byte) :
    d.bytesToPacket ≤ (d.receive b).decoder.bytesToPacket + 1 := by
  by_cases hr : d.reachesHandler b = true
  · cases hs : d.state with
    | waitingSignal =>
      rw [Decoder.receive_of_waitingSignal hs hr]
      exact Nat.le_succ _
    | expectSeparator =>
      by_cases hb : b = 0x00#8
      · subst hb
        rw [Decoder.receive_of_separator hs hr, Decoder.bytesToPacket, hs]
        exact Nat.le_refl _
      · rw [Decoder.receive_of_not_separator hs hr hb, Decoder.bytesToPacket, hs]
        exact Nat.le_succ _
    | expectSeq =>
      rw [Decoder.receive_of_expectSeq hs hr, Decoder.bytesToPacket, hs]
      cases hb : b.msb <;> simp [Decoder.bytesToPacket, Decoder.quiet, DecState.bytesToPacket]
    | expectCmd =>
      rw [Decoder.receive_of_expectCmd hs hr, Decoder.bytesToPacket, hs]
      cases hb : b.msb <;> simp [Decoder.bytesToPacket, Decoder.quiet, DecState.bytesToPacket]
    | expectLength =>
      simp only [Decoder.Inv, hs] at hinv
      rw [Decoder.receive_of_expectLength hs hr]
      simp only [Decoder.bytesToPacket, hs, hinv.2]
      split_ifs <;> decide
    | expectData =>
      simp only [Decoder.Inv, hs] at hinv
      rw [Decoder.receive_of_expectData hs hr]
      simp only [Decoder.bytesToPacket, hs, hinv.2.2]
      split_ifs <;> decide
    | expectCrc =>
      have hfield : ∀ n : BitVec 2, n ≠ 3#2 → 5 - n.toNat ≤ 5 - (n + 1#2).toNat + 1 := by decide
      rw [Decoder.receive_of_expectCrc hs hr]
      by_cases hn : d.crcN = 3#2
      · simp only [Decoder.bytesToPacket, hs, hn]
        split_ifs <;> decide
      · simp only [Decoder.bytesToPacket, hs, if_pos hn]
        exact hfield _ hn
    | expectTerminator =>
      rw [Decoder.bytesToPacket, hs]
      exact Nat.le_add_left 1 _
  · exact Nat.le_succ_of_le (Decoder.bytesToPacket_le_of_consumed hr)

/-! ### Runs without a packet -/

/-- Errors only, no packet. -/
def OnlyErrors (events : List Event) : Prop :=
  ∀ e ∈ events, ∃ c, e = .err c

theorem OnlyErrors.nil : OnlyErrors [] := fun _ h => nomatch h

theorem OnlyErrors.append {es es' : List Event} (h : OnlyErrors es) (h' : OnlyErrors es') : OnlyErrors (es ++ es') :=
  fun e he => (List.mem_append.1 he).elim (h e) (h' e)

/-- What consumers see of errors only are errors. -/
theorem OnlyErrors.deliveriesAll {es : List Event} (h : OnlyErrors es) (d : Decoder) (link : Ref) :
    ∀ x ∈ d.deliveriesAll link es, ∃ c, x.event = .err c := by
  intro x hx
  obtain ⟨e, he, hx⟩ := List.mem_flatMap.1 hx
  obtain ⟨c, rfl⟩ := h e he
  refine ⟨c, ?_⟩
  unfold Decoder.deliveries at hx
  cases hk : d.onError <;> simp [hk] at hx
  rw [hx]

/-- R192: a packet takes the terminator, in `expect_terminator`, and not after a pair of signal bytes. -/
theorem Decoder.receive_onlyErrors {d : Decoder} {b : Byte}
    (h : b ≠ TERMINATOR ∨ d.state ≠ .expectTerminator ∨ d.sigcnt = 2#2) :
    OnlyErrors (d.receive b).event.toList := by
  rw [Decoder.receive_event]
  intro e he
  have he := Option.mem_toList.1 he
  cases e with
  | err c => exact ⟨c, rfl⟩
  | pkt seq cmd payload len =>
    obtain ⟨hb, hs, hn, _⟩ := Decoder.transition_packet he
    rcases h with h | h | h
    · exact absurd hb h
    · exact absurd hs h
    · exact absurd h hn

theorem Decoder.run_onlyErrors_of_no_terminator (d : Decoder) (bs : List Byte) (h : ∀ b ∈ bs, b ≠ TERMINATOR) :
    OnlyErrors (d.run bs).events := by
  induction bs generalizing d with
  | nil => exact OnlyErrors.nil
  | cons b rest ih =>
    obtain ⟨hb, hrest⟩ := List.forall_mem_cons.1 h
    exact (Decoder.receive_onlyErrors (.inl hb)).append (ih _ hrest)

theorem Decoder.receive_onlyErrors_of_far {d : Decoder} (h : 1 < d.bytesToPacket) (b : Byte) :
    OnlyErrors (d.receive b).event.toList :=
  Decoder.receive_onlyErrors (.inr <| .inl fun hs => by simp [Decoder.bytesToPacket, DecState.bytesToPacket, hs] at h)

/-- Too few bytes deliver no packet. -/
theorem Decoder.run_onlyErrors_of_short {bs : List Byte} :
    ∀ {d : Decoder}, d.Inv → bs.length < d.bytesToPacket → OnlyErrors (d.run bs).events := by
  induction bs with
  | nil => exact fun _ _ => OnlyErrors.nil
  | cons b rest ih =>
    intro d hinv hlt
    have hstep := Decoder.bytesToPacket_le_succ hinv b
    rw [List.length_cons] at hlt
    exact (Decoder.receive_onlyErrors_of_far (by omega) b).append (ih (Decoder.receive_inv hinv b) (by omega))

/-- R272: a pair of signal bytes costs a byte, which stage 1 or stage 2 consumes, so that as many bytes as a packet
takes at least deliver none if there is a pair before the last of them. -/
theorem Decoder.run_onlyErrors_of_pair {z : Byte} {bs : List Byte} :
    ∀ {d : Decoder}, d.Inv → d.sigcnt < 2#2 → ¬ d.MeetsNoPair bs → bs.length < d.bytesToPacket →
      OnlyErrors (d.run (bs ++ [z])).events := by
  induction bs with
  | nil =>
    intro d _ hlt hpair _
    refine absurd ?_ hpair
    rcases Decoder.sigcnt_cases hlt with hn | hn <;> rw [Decoder.MeetsNoPair, hn] <;> rfl
  | cons b rest ih =>
    intro d hinv hlt hpair hlen
    rw [List.length_cons] at hlen
    have hstep := Decoder.bytesToPacket_le_succ hinv b
    have hinv' := Decoder.receive_inv hinv b
    refine (Decoder.receive_onlyErrors_of_far (by omega) b).append ?_
    by_cases hsecond : d.sigcnt = 1#2 ∧ b = SIGNAL
    · have hcount : (d.receive b).decoder.sigcnt = 2#2 := by
        rw [Decoder.receive_sigcnt, if_pos hsecond.2, hsecond.1]
        rfl
      have hconsumed (c : Byte) : ¬ (d.receive b).decoder.reachesHandler c = true := by
        simp [Decoder.reachesHandler, hcount]
      obtain ⟨c, tail, htail⟩ :=
        List.exists_cons_of_ne_nil (List.append_ne_nil_of_right_ne_nil rest (List.cons_ne_nil z []))
      have htailLen := congrArg List.length htail
      simp only [List.length_append, List.length_cons, List.length_nil] at htailLen
      have hkeep := Decoder.bytesToPacket_le_of_consumed (hconsumed c)
      have hshort := Decoder.run_onlyErrors_of_short (bs := tail) (Decoder.receive_inv hinv' c) (by omega)
      have hfirst := Decoder.receive_onlyErrors (d := (d.receive b).decoder) (b := c) (.inr (.inr hcount))
      show OnlyErrors ((d.receive b).decoder.run (rest ++ [z])).events
      rw [htail]
      exact hfirst.append hshort
    · exact ih hinv' (Decoder.receive_sigcnt_lt hlt hsecond)
        (fun h => hpair ((Decoder.meetsNoPair_receive_iff hlt hsecond rest).1 h)) (by omega)

/-! ### The payload in the buffer (R53, R54) -/

/-- The stores of a payload make the view of its length show it. -/
theorem Memory.viewed_writeAll_payloadStores (m : Memory) (buf : Ref) (payload : List Byte)
    (h : payload.length < 2 ^ 32) :
    (m.writeAll buf (payloadStores 0 payload)).viewed { buf := buf, len := BitVec.ofNat 32 payload.length } =
      payload.map some := by
  simp only [Memory.viewed, BitVec.toNat_ofNat, Nat.mod_eq_of_lt h]
  induction payload using List.reverseRecOn with
  | nil => rfl
  | append_singleton init b ih =>
    have hlen : (init ++ [b]).length = init.length + 1 := by simp
    have hlast : payloadStores (0 + init.length) [b] = [(BitVec.ofNat 32 init.length, b)] := by simp [payloadStores]
    have hoff : (BitVec.ofNat 32 init.length).toNat = init.length := by
      rw [BitVec.toNat_ofNat, Nat.mod_eq_of_lt (by omega)]
    rw [payloadStores_append, Memory.writeAll_append, hlast, hlen, List.range_succ, List.map_append, List.map_append,
      ← ih (by omega)]
    congr 1
    · refine List.map_congr_left fun i hi => ?_
      have hi := List.mem_range.1 hi
      exact Memory.read_write_other _ _ (BitVec.isLt _) (by omega) fun h => Nat.ne_of_lt hi (h.2.trans hoff)
    · simp [Memory.writeAll, hoff]

/-! ### Which CRC fields meet a pair, and which match (R271, R272) -/

theorem noSignalPair_concat_of_ne {b : Byte} (h : b ≠ SIGNAL) (bs : List Byte) :
    noSignalPair (bs ++ [b]) = noSignalPair bs := by
  induction bs with
  | nil => rfl
  | cons a rest ih =>
    cases rest with
    | nil => simp [noSignalPair, h]
    | cons c rest => exact congrArg (!(a = SIGNAL && c = SIGNAL) && ·) ih

/-- The terminator is no signal byte, so that it completes no pair. -/
theorem Decoder.meetsNoPair_terminator_iff {d : Decoder} {bs : List Byte} :
    d.MeetsNoPair (bs ++ [TERMINATOR]) ↔ d.MeetsNoPair bs := by
  rw [Decoder.MeetsNoPair, Decoder.MeetsNoPair, ← List.append_assoc, noSignalPair_concat_of_ne (by decide)]

section WholeFrame

variable (d : Decoder) (seq cmd : Word) (payload : List Byte)

theorem Decoder.atCrcField_sigcnt :
    (d.atCrcField seq cmd payload).sigcnt = BitVec.ofNat 2 (trailingSignals (frameBody seq cmd payload) % 2) := rfl

/-- No byte of the field has been received. -/
theorem Decoder.atCrcField_inField :
    (d.atCrcField seq cmd payload).inField (d.atCrcField seq cmd payload).sigcnt 0#32 0#2 =
      d.atCrcField seq cmd payload := rfl

theorem Decoder.atCrcField_seq : (d.atCrcField seq cmd payload).seq = seq := rfl

theorem Decoder.atCrcField_cmd : (d.atCrcField seq cmd payload).cmd = cmd := rfl

theorem Decoder.atCrcField_len : (d.atCrcField seq cmd payload).len = BitVec.ofNat 32 payload.length := rfl

theorem Decoder.atCrcField_crc :
    (d.atCrcField seq cmd payload).crc = crcFold crcStart (checkedRegion seq cmd payload) := rfl

theorem Decoder.atCrcField_buf : (d.atCrcField seq cmd payload).buf = d.buf := rfl

theorem Decoder.atCrcField_sigcnt_lt : (d.atCrcField seq cmd payload).sigcnt < 2#2 := by
  rw [Decoder.atCrcField_sigcnt]
  rcases Nat.mod_two_eq_zero_or_one (trailingSignals (frameBody seq cmd payload)) with h | h <;> rw [h] <;> decide

/-- Clauses (2) and (3) of `FrameClean` (R275): the CRC field meets no pair of signal bytes. -/
theorem Decoder.atCrcField_meetsNoPair_iff :
    (d.atCrcField seq cmd payload).MeetsNoPair (crcField seq cmd payload) ↔
      fieldJoinClean (frameBody seq cmd payload) (crcField seq cmd payload) = true ∧
        noSignalPair (crcField seq cmd payload) = true := by
  rw [Decoder.MeetsNoPair, Decoder.atCrcField_sigcnt, fieldJoinClean, endsInOpenSignal]
  rcases Nat.mod_two_eq_zero_or_one (trailingSignals (frameBody seq cmd payload)) with h | h
  · rw [h]
    simp
  · rw [h]
    simp [crcField, bytesMsbFirst, noSignalPair]

/-- R271: the CRC that the decoder computes is that of the field, unless the covered region ends in an inserted byte and
the accumulator before it is not 0. -/
theorem Decoder.atCrcField_matches_iff :
    crcFinish (d.atCrcField seq cmd payload).crc = crc32 (coveredRegion seq cmd payload) ↔
      (endsStuffed (frameBody seq cmd payload) = true →
        crcFold crcStart (coveredRegion seq cmd payload).dropLast = 0#32) := by
  rw [Decoder.atCrcField_crc, crc32, crcFinish_injective.eq_iff]
  by_cases h : endsStuffed (frameBody seq cmd payload) = true
  · rcases List.eq_nil_or_concat (frameBody seq cmd payload) with hnil | ⟨as, b, hbody⟩
    · rw [hnil] at h
      cases h
    · rw [List.concat_eq_append] at hbody
      obtain rfl : b = SIGNAL := ((endsStuffed_concat as b).1 (hbody ▸ h)).1
      have hfix := Proofs.zeroByteFixesOnlyTheZeroAccumulator (crcFold crcStart (stuffed as ++ [SIGNAL]))
      have hends := hbody ▸ h
      rw [checkedRegion_of_last_pair seq cmd hbody hends, coveredRegion_of_last_pair seq cmd hbody hends,
        List.dropLast_concat, crcFold_append _ (stuffed as ++ [SIGNAL]), eq_comm]
      exact hfix.trans ⟨fun hzero _ => hzero, fun hzero => hzero h⟩
  · simp [checkedRegion, h]

/-! ### The run of a whole frame (R70, R275) -/

/-- The preamble of a frame (R70). -/
def preamble : List Byte := [0xAA#8, 0xAA#8, 0xAA#8]

/-- R191: the preamble syncs, whatever the context was before it. -/
theorem Decoder.run_preamble_synced :
    (d.run preamble).decoder.state = .expectSeparator ∧ (d.run preamble).decoder.sigcnt = 3#2 := by
  rw [preamble, Decoder.run, Decoder.run, Decoder.run, Decoder.run_nil,
    Decoder.receive_of_syncs d.syncs_after_two_signals]
  exact ⟨rfl, rfl⟩

/-- The preamble raises errors only: it holds no terminator. -/
theorem Decoder.run_preamble_onlyErrors : OnlyErrors (d.run preamble).events :=
  d.run_onlyErrors_of_no_terminator preamble (by decide)

theorem frame_eq : frame seq cmd payload =
    preamble ++ coveredRegion seq cmd payload ++ (crcField seq cmd payload ++ [TERMINATOR]) := by
  rw [frame, List.append_assoc _ (crcField seq cmd payload)]
  rfl

theorem frame_dropLast : (frame seq cmd payload).dropLast =
    preamble ++ coveredRegion seq cmd payload ++ crcField seq cmd payload := by
  rw [frame_eq, ← List.append_assoc, List.dropLast_concat]

theorem frame_dropLast_dropLast : (frame seq cmd payload).dropLast.dropLast =
    preamble ++ coveredRegion seq cmd payload ++ (crcField seq cmd payload).dropLast := by
  rw [frame_dropLast, List.dropLast_append_of_ne_nil (show crcField seq cmd payload ≠ [] from List.cons_ne_nil _ _)]

theorem frame_eq_dropLast_append : frame seq cmd payload = (frame seq cmd payload).dropLast ++ [TERMINATOR] := by
  rw [frame_dropLast, frame_eq, List.append_assoc _ (crcField seq cmd payload)]

variable {d seq cmd payload}

/-- The context before the CRC field of a frame that was received from the preamble on. -/
theorem Decoder.run_to_field (hcap : payload.length ≤ d.cap.toNat) :
    d.run (preamble ++ coveredRegion seq cmd payload) =
      ⟨(d.run preamble).decoder.atCrcField seq cmd payload, (d.run preamble).stores ++ payloadStores 0 payload,
        (d.run preamble).events⟩ := by
  obtain ⟨hs, hsig⟩ := d.run_preamble_synced
  have hcap' : payload.length ≤ (d.run preamble).decoder.cap.toNat := by rwa [(d.run_sameConfig preamble).cap]
  rw [Decoder.run_append, Decoder.run_coveredRegion seq cmd hs hsig hcap', List.append_nil]

/-- A frame whose CRC field meets no pair of signal bytes: nothing is reported between the third byte and the last byte
of the field, which decides, and the terminator completes no pair. -/
theorem Decoder.run_frame_of_noPair (hcap : payload.length ≤ d.cap.toNat)
    (hjoin : fieldJoinClean (frameBody seq cmd payload) (crcField seq cmd payload) = true)
    (hfield : noSignalPair (crcField seq cmd payload) = true) :
    (d.run (frame seq cmd payload).dropLast.dropLast).events = (d.run preamble).events ∧
    ∃ n, d.run (frame seq cmd payload).dropLast =
        ⟨((d.run preamble).decoder.atCrcField seq cmd payload).afterField n (crc32 (coveredRegion seq cmd payload)),
          (d.run preamble).stores ++ payloadStores 0 payload,
          (d.run preamble).events ++
            (((d.run preamble).decoder.atCrcField seq cmd payload).fieldEvent
              (crc32 (coveredRegion seq cmd payload))).toList⟩ ∧
      (((d.run preamble).decoder.atCrcField seq cmd payload).afterField n
        (crc32 (coveredRegion seq cmd payload))).MeetsNoPair [TERMINATOR] := by
  have hpair := Decoder.meetsNoPair_terminator_iff.2
    (((d.run preamble).decoder.atCrcField_meetsNoPair_iff seq cmd payload).2 ⟨hjoin, hfield⟩)
  rw [frame_dropLast_dropLast, frame_dropLast]
  exact Decoder.run_append_field (Decoder.run_to_field hcap) (Decoder.atCrcField_inField ..) hpair

/-- R272: a frame whose CRC field meets a pair of signal bytes delivers nothing. -/
theorem Decoder.run_frame_of_pair (hinv : d.Inv) (hcap : payload.length ≤ d.cap.toNat)
    (h : ¬ (fieldJoinClean (frameBody seq cmd payload) (crcField seq cmd payload) = true ∧
      noSignalPair (crcField seq cmd payload) = true)) :
    OnlyErrors (d.run (frame seq cmd payload)).events := by
  have hrun := Decoder.run_to_field hcap (seq := seq) (cmd := cmd)
  have hinv' : ((d.run preamble).decoder.atCrcField seq cmd payload).Inv := by
    have hrunInv := Decoder.run_inv hinv (preamble ++ coveredRegion seq cmd payload)
    rwa [hrun] at hrunInv
  rw [frame_eq, Decoder.run_append_of_eq hrun]
  refine d.run_preamble_onlyErrors.append (Decoder.run_onlyErrors_of_pair hinv'
    (Decoder.atCrcField_sigcnt_lt ..) ?_ (show 4 < 5 by decide))
  rwa [Decoder.atCrcField_meetsNoPair_iff]

/-- R271, R232: the field of a frame that meets no pair, but holds another CRC, fails on its fourth byte, and the
terminator after it is ignored. -/
theorem Decoder.run_frame_of_mismatch (hcap : payload.length ≤ d.cap.toNat)
    (hjoin : fieldJoinClean (frameBody seq cmd payload) (crcField seq cmd payload) = true)
    (hfield : noSignalPair (crcField seq cmd payload) = true)
    (hstuffed : endsStuffed (frameBody seq cmd payload) = true)
    (hacc : crcFold crcStart (coveredRegion seq cmd payload).dropLast ≠ 0#32) :
    (d.run (frame seq cmd payload).dropLast).events = (d.run preamble).events ++ [.err .checksumMismatch] ∧
      (d.run (frame seq cmd payload)).events = (d.run preamble).events ++ [.err .checksumMismatch] := by
  obtain ⟨_, n, hall, hm⟩ := Decoder.run_frame_of_noPair hcap hjoin hfield
  have hcrc := mt ((d.run preamble).decoder.atCrcField_matches_iff seq cmd payload).1 fun himp => hacc (himp hstuffed)
  rw [Decoder.fieldEvent_of_mismatch hcrc] at hall
  refine ⟨by rw [hall]; rfl, ?_⟩
  rw [frame_eq_dropLast_append]
  exact Decoder.run_append_terminator_of_mismatch hall hm hcrc

/-- R275: the last byte of a clean frame delivers the packet. -/
theorem Decoder.run_frame_of_clean (hcap : payload.length ≤ d.cap.toNat)
    (hclean : frameClean seq cmd payload = true) :
    (d.run (frame seq cmd payload).dropLast).events = (d.run preamble).events ∧
      (d.run (frame seq cmd payload)).events = (d.run preamble).events ++
        [.pkt seq cmd (if payload = [] then none else some { buf := d.buf, len := BitVec.ofNat 32 payload.length })
          (BitVec.ofNat 32 payload.length)] ∧
      (d.run (frame seq cmd payload)).stores = (d.run preamble).stores ++ payloadStores 0 payload := by
  simp only [frameClean, Bool.and_eq_true, Bool.not_eq_true'] at hclean
  obtain ⟨⟨hstuffed, hjoin⟩, hfield⟩ := hclean
  obtain ⟨_, n, hall, hm⟩ := Decoder.run_frame_of_noPair hcap hjoin hfield
  have hcrc := ((d.run preamble).decoder.atCrcField_matches_iff seq cmd payload).2 fun h => by simp [hstuffed] at h
  rw [Decoder.fieldEvent_of_match hcrc, Option.toList_none, List.append_nil] at hall
  have hempty : BitVec.ofNat 32 payload.length = 0#32 ↔ payload = [] := by
    have hn : payload.length < 2 ^ 32 := Nat.lt_of_le_of_lt hcap d.cap.isLt
    rw [← BitVec.toNat_inj, BitVec.toNat_ofNat, Nat.mod_eq_of_lt hn]
    exact List.length_eq_zero_iff
  obtain ⟨hpacket, hstores⟩ := Decoder.run_append_terminator_of_match hall hm hcrc
  simp only [Decoder.atCrcField_seq, Decoder.atCrcField_cmd, Decoder.atCrcField_len, Decoder.atCrcField_buf,
    (d.run_sameConfig preamble).buf, hempty] at hpacket
  rw [frame_eq_dropLast_append]
  exact ⟨by rw [List.dropLast_concat, hall], hpacket, hstores⟩

end WholeFrame

end Sys2Proof.Machine

namespace Sys2Proof.Proofs

open Sys2Proof.Machine

/-- Settles O58: the run of a clean frame on the context, put into the state at the third byte, before the terminator
and after it. -/
theorem cleanFrameIsDelivered : Obligations.CleanFrameIsDelivered := by
  intro s link d seq cmd payload hinv hd hcap hclean
  obtain ⟨hevents, hpacket, hstores⟩ := Decoder.run_frame_of_clean hcap hclean
  obtain ⟨s3, hfeed3, hleft3⟩ := hinv.feed_run hd preamble
  obtain ⟨u, hfeedu, hleftu⟩ := hinv.feed_run hd (frame seq cmd payload).dropLast
  obtain ⟨t, hfeedt, hleftt⟩ := hinv.feed_run hd (frame seq cmd payload)
  refine ⟨s3, u, t, d.deliveriesAll link (d.run preamble).events, hfeed3, hleft3.events,
    d.run_preamble_onlyErrors.deliveriesAll d link, fun hidle hsig => ?_, hfeedu, ?_, hfeedt, ?_, ?_⟩
  · obtain ⟨u3, _, hthree, _, _, _, hu3, _⟩ := State.feed_three_signals_of_idle hd hidle hsig
    obtain rfl : s3 = u3 := Host.Outcome.next.inj (hfeed3.symm.trans (hthree []))
    exact List.append_right_eq_self.1 (hleft3.events.symm.trans hu3)
  · rw [hleftu.events, hevents]
  · rw [hleftt.events, hpacket, Decoder.deliveriesAll_append, List.append_assoc]
    rfl
  · rw [hleftt.memory, hstores, Memory.writeAll_append]
    exact Memory.viewed_writeAll_payloadStores _ _ _ (Nat.lt_of_le_of_lt hcap d.cap.isLt)

/-- Settles O59: a field that meets a pair loses a byte to stage 1 or stage 2; without a pair, what is unclean is the
inserted byte at the end of the covered region, and the checksum fails. -/
theorem uncleanFrameIsNotDelivered : Obligations.UncleanFrameIsNotDelivered := by
  intro s t link d seq cmd payload hinv hd hcap hunclean hexcept hfeed
  obtain ⟨t', hfeed', hleft⟩ := hinv.feed_run hd (frame seq cmd payload)
  obtain rfl : t = t' := Host.Outcome.next.inj (hfeed.symm.trans hfeed')
  refine ⟨_, hleft.events, OnlyErrors.deliveriesAll ?_ d link⟩
  by_cases hpair : fieldJoinClean (frameBody seq cmd payload) (crcField seq cmd payload) = true ∧
      noSignalPair (crcField seq cmd payload) = true
  · obtain ⟨hjoin, hfield⟩ := hpair
    have hstuffed : endsStuffed (frameBody seq cmd payload) = true := by
      simpa [frameClean, hjoin, hfield] using hunclean
    have hmismatch := Decoder.run_frame_of_mismatch hcap hjoin hfield hstuffed
      fun hacc => hexcept ⟨hfield, hstuffed, hacc⟩
    rw [hmismatch.2]
    exact d.run_preamble_onlyErrors.append fun e he => ⟨_, List.mem_singleton.1 he⟩
  · exact Decoder.run_frame_of_pair (hinv.decoder hd) hcap hpair

/-- Settles O60: a covered region that ends in an inserted byte leaves no signal run before the field, so that the field
is received whole and differs from the CRC of what the decoder folded. -/
theorem trailingPairFailsTheChecksum : Obligations.TrailingPairFailsTheChecksum := by
  intro s link d seq cmd payload hinv hd hcap hstuffed hfield hacc
  have hjoin : fieldJoinClean (frameBody seq cmd payload) (crcField seq cmd payload) = true := by
    simp only [endsStuffed, Bool.and_eq_true, decide_eq_true_eq] at hstuffed
    simp [fieldJoinClean, endsInOpenSignal, hstuffed.2]
  obtain ⟨hquiet, _⟩ := Decoder.run_frame_of_noPair hcap hjoin hfield
  obtain ⟨hlast, hterm⟩ := Decoder.run_frame_of_mismatch hcap hjoin hfield hstuffed hacc
  obtain ⟨s3, hfeed3, hleft3⟩ := hinv.feed_run hd preamble
  obtain ⟨u, hfeedu, hleftu⟩ := hinv.feed_run hd (frame seq cmd payload).dropLast.dropLast
  obtain ⟨v, hfeedv, hleftv⟩ := hinv.feed_run hd (frame seq cmd payload).dropLast
  obtain ⟨t, hfeedt, hleftt⟩ := hinv.feed_run hd (frame seq cmd payload)
  refine ⟨s3, u, v, t, d.deliveriesAll link (d.run preamble).events, hfeed3, hleft3.events, hfeedu, ?_, hfeedv, ?_,
    hfeedt, ?_⟩
  · rw [hleftu.events, hquiet]
  · rw [hleftv.events, hlast, Decoder.deliveriesAll_append, List.append_assoc]
    exact congrArg (fun es => _ ++ (_ ++ es)) (d.deliveriesAll_toList link (some _))
  · rw [hleftt.events, hleftv.events, hlast, hterm]

end Sys2Proof.Proofs
end
